-- ==== Sys2Proof/Word.lean ====
section
/-! DEFINITION. The bit vectors the spec gives widths to (spec/30_encoding.md R47, R49 to R53; spec/20_memory.md R31 to R34), and
the one word a step consumes. Bit 0 is the least significant bit of each (spec/20_memory.md R35). -/

namespace Sys2Proof

/-- The event word `ev[1:0] = {rst, tick}` (R47). -/
abbrev EventWord := BitVec 2
/-- The segment ROM address `a[3:0]` (R49). -/
abbrev SegAddr := BitVec 4
/-- The slot `s[1:0]`, also the divisor ROM address (R50). -/
abbrev Slot := BitVec 2
/-- The pin index `p[2:0]`, the select decoder's input (R51). -/
abbrev PinIndex := BitVec 3
/-- A divisor ROM entry (R32). -/
abbrev Divisor := BitVec 10
/-- A segment pattern: bit `i` set means segment `i` lit (R21, R35). -/
abbrev Pattern := BitVec 7
/-- The digit-select lines: bit `p` is line `p` (R23). -/
abbrev SelectWord := BitVec 8
/-- The OUT space: segment lines at [14:8], digit-select lines at [7:0] (R33). -/
abbrev Lines := BitVec 15

/-- What one step consumes: an event word, or, for a unit used on its own, that unit's input. The four groups of
spec/30_encoding.md R54, each with the width the spec gives its input. Only the first is a port of the block (R46); the other
three are the model's stand-alone lookups (DESIGN CHOICE, log entry 1). -/
inductive InputWord where
  /-- R47: an event word. -/
  | event (ev : EventWord)
  /-- R49: a segment ROM address. -/
  | segRom (a : SegAddr)
  /-- R50: a divisor ROM address. -/
  | divRom (s : Slot)
  /-- R51: a select decoder input. -/
  | selDec (p : PinIndex)
  deriving DecidableEq, Repr

end Sys2Proof
end

