-- ==== Sys2Proof/Syntax.lean ====
section
/-! DEFINITION. The operations of spec/opcode_table.json, one constructor per row (spec/30_encoding.md R54). -/

namespace Sys2Proof

/-- One constructor per row of the opcode table. An operand is what the row's mask leaves open. -/
inductive Instr where
  -- events (R48)
  | idle
  | tick
  /-- `1x`: the operand is the tick bit of the word, which is dropped (spec/60_exceptions.md R87). -/
  | reset (tick : BitVec 1)
  -- segment ROM addresses 0..9 (R58)
  | enc0
  | enc1
  | enc2
  | enc3
  | enc4
  | enc5
  | enc6
  | enc7
  | enc8
  | enc9
  /-- `101x`: the operand is the whole address, 10 or 11 (R59). -/
  | encIllA (a : SegAddr)
  /-- `11xx`: the operand is the whole address, 12 to 15 (R59). -/
  | encIllC (a : SegAddr)
  -- divisor ROM addresses (R63)
  | div0
  | div1
  | div2
  | div3
  -- select decoder inputs (R69)
  | sel0
  | sel1
  | sel2
  | sel3
  | sel4
  | sel5
  | sel6
  | sel7
  deriving DecidableEq, Repr

end Sys2Proof
end

