-- ==== Sys2Proof/WellFormed.lean ====
section
/-! DEFINITION. Which terms of `Instr` stand for an encoding: the addresses of the two illegal rows lie in their rows
(spec/30_encoding.md R52, R54). Every other constructor's operands are well-formed by their type. -/

namespace Sys2Proof

/-- The operand of an illegal row matches that row's pattern: `101x` is 10..11 and `11xx` is 12..15 (R52). -/
def Instr.wf : Instr → Bool
  | .encIllA a => a.toNat == 10 || a.toNat == 11
  | .encIllC a => decide (12 ≤ a.toNat)
  | .idle | .tick | .reset _ => true
  | .enc0 | .enc1 | .enc2 | .enc3 | .enc4 | .enc5 | .enc6 | .enc7 | .enc8 | .enc9 => true
  | .div0 | .div1 | .div2 | .div3 => true
  | .sel0 | .sel1 | .sel2 | .sel3 | .sel4 | .sel5 | .sel6 | .sel7 => true

end Sys2Proof
end

