-- ==== Sys2Proof/Decode.lean ====
section
/-! DEFINITION. Decoding an input word to an operation, total on every word (spec/30_encoding.md R48 to R52, R54), the encoder beside
it, the opcode table as data, and the reading of a bare table word. -/

namespace Sys2Proof

/-- R48, `decode_event`: bit 1 is `rst` and wins, bit 0 is `tick`. No event code is illegal. -/
def decodeEvent (ev : EventWord) : Instr :=
  if ev.getLsbD 1 then .reset (BitVec.ofBool (ev.getLsbD 0))
  else if ev.getLsbD 0 then .tick
  else .idle

/-- R49, R52: addresses 0..9 are the ENCODE entries, `101x` and `11xx` are the two illegal rows. -/
def decodeSegAddr (a : SegAddr) : Instr :=
  match a.toNat with
  | 0 => .enc0
  | 1 => .enc1
  | 2 => .enc2
  | 3 => .enc3
  | 4 => .enc4
  | 5 => .enc5
  | 6 => .enc6
  | 7 => .enc7
  | 8 => .enc8
  | 9 => .enc9
  | 10 => .encIllA a
  | 11 => .encIllA a
  | _ => .encIllC a

/-- R50: all four divisor ROM addresses are legal. -/
def decodeSlot (s : Slot) : Instr :=
  match s.toNat with
  | 0 => .div0
  | 1 => .div1
  | 2 => .div2
  | _ => .div3

/-- R51: all eight select decoder inputs are legal. -/
def decodePin (p : PinIndex) : Instr :=
  match p.toNat with
  | 0 => .sel0
  | 1 => .sel1
  | 2 => .sel2
  | 3 => .sel3
  | 4 => .sel4
  | 5 => .sel5
  | 6 => .sel6
  | _ => .sel7

/-- The operation an input word stands for: within its group exactly one row matches (R54), so nothing is refused here. -/
def decode : InputWord → Instr
  | .event ev => decodeEvent ev
  | .segRom a => decodeSegAddr a
  | .divRom s => decodeSlot s
  | .selDec p => decodePin p

/-- The input word of a well-formed operation, from the `match` column of its row and its operand (R48 to R52). -/
def encode : Instr → InputWord
  | .idle => .event 0b00#2
  | .tick => .event 0b01#2
  | .reset b => .event (0b1#1 ++ b)
  | .enc0 => .segRom 0b0000#4
  | .enc1 => .segRom 0b0001#4
  | .enc2 => .segRom 0b0010#4
  | .enc3 => .segRom 0b0011#4
  | .enc4 => .segRom 0b0100#4
  | .enc5 => .segRom 0b0101#4
  | .enc6 => .segRom 0b0110#4
  | .enc7 => .segRom 0b0111#4
  | .enc8 => .segRom 0b1000#4
  | .enc9 => .segRom 0b1001#4
  | .encIllA a => .segRom a
  | .encIllC a => .segRom a
  | .div0 => .divRom 0b00#2
  | .div1 => .divRom 0b01#2
  | .div2 => .divRom 0b10#2
  | .div3 => .divRom 0b11#2
  | .sel0 => .selDec 0b000#3
  | .sel1 => .selDec 0b001#3
  | .sel2 => .selDec 0b010#3
  | .sel3 => .selDec 0b011#3
  | .sel4 => .selDec 0b100#3
  | .sel5 => .selDec 0b101#3
  | .sel6 => .selDec 0b110#3
  | .sel7 => .selDec 0b111#3

/-- The name of an operation's row in the opcode table. -/
def mnemonicOf : Instr → String
  | .idle => "IDLE"
  | .tick => "TICK"
  | .reset _ => "RESET"
  | .enc0 => "ENC0"
  | .enc1 => "ENC1"
  | .enc2 => "ENC2"
  | .enc3 => "ENC3"
  | .enc4 => "ENC4"
  | .enc5 => "ENC5"
  | .enc6 => "ENC6"
  | .enc7 => "ENC7"
  | .enc8 => "ENC8"
  | .enc9 => "ENC9"
  | .encIllA _ => "ENC_ILL_A"
  | .encIllC _ => "ENC_ILL_C"
  | .div0 => "DIV0"
  | .div1 => "DIV1"
  | .div2 => "DIV2"
  | .div3 => "DIV3"
  | .sel0 => "SEL0"
  | .sel1 => "SEL1"
  | .sel2 => "SEL2"
  | .sel3 => "SEL3"
  | .sel4 => "SEL4"
  | .sel5 => "SEL5"
  | .sel6 => "SEL6"
  | .sel7 => "SEL7"

/-- The four groups of the opcode table (R54): which unit's input a row is. -/
inductive RowGroup where
  | event
  | segRom
  | divRom
  | selDec
  deriving DecidableEq, Repr

/-- A row of spec/opcode_table.json: its name, its group, and its `match` and `mask` numbers. -/
structure OpcodeRow where
  name : String
  group : RowGroup
  pattern : Nat
  mask : Nat
  deriving DecidableEq, Repr

/-- The event rows (R48). -/
def eventRows : List OpcodeRow :=
  [⟨"IDLE", .event, 0b00, 0b11⟩, ⟨"TICK", .event, 0b01, 0b11⟩, ⟨"RESET", .event, 0b10, 0b10⟩]

/-- The segment ROM rows (R49, R52). -/
def segRomRows : List OpcodeRow :=
  [⟨"ENC0", .segRom, 0, 0b1111⟩, ⟨"ENC1", .segRom, 1, 0b1111⟩, ⟨"ENC2", .segRom, 2, 0b1111⟩,
   ⟨"ENC3", .segRom, 3, 0b1111⟩, ⟨"ENC4", .segRom, 4, 0b1111⟩, ⟨"ENC5", .segRom, 5, 0b1111⟩,
   ⟨"ENC6", .segRom, 6, 0b1111⟩, ⟨"ENC7", .segRom, 7, 0b1111⟩, ⟨"ENC8", .segRom, 8, 0b1111⟩,
   ⟨"ENC9", .segRom, 9, 0b1111⟩, ⟨"ENC_ILL_A", .segRom, 0b1010, 0b1110⟩, ⟨"ENC_ILL_C", .segRom, 0b1100, 0b1100⟩]

/-- The divisor ROM rows (R50). -/
def divRomRows : List OpcodeRow :=
  [⟨"DIV0", .divRom, 0, 0b11⟩, ⟨"DIV1", .divRom, 1, 0b11⟩, ⟨"DIV2", .divRom, 2, 0b11⟩, ⟨"DIV3", .divRom, 3, 0b11⟩]

/-- The select decoder rows (R51). -/
def selDecRows : List OpcodeRow :=
  [⟨"SEL0", .selDec, 0, 0b111⟩, ⟨"SEL1", .selDec, 1, 0b111⟩, ⟨"SEL2", .selDec, 2, 0b111⟩, ⟨"SEL3", .selDec, 3, 0b111⟩,
   ⟨"SEL4", .selDec, 4, 0b111⟩, ⟨"SEL5", .selDec, 5, 0b111⟩, ⟨"SEL6", .selDec, 6, 0b111⟩, ⟨"SEL7", .selDec, 7, 0b111⟩]

/-- The 27 rows of spec/opcode_table.json, in its order. -/
def opcodeTable : List OpcodeRow := eventRows ++ segRomRows ++ divRomRows ++ selDecRows

/-- The group an input word belongs to. -/
def groupOf : InputWord → RowGroup
  | .event _ => .event
  | .segRom _ => .segRom
  | .divRom _ => .divRom
  | .selDec _ => .selDec

/-- An input word's bits as one number, bit 0 its least significant. -/
def bitsOf : InputWord → Nat
  | .event ev => ev.toNat
  | .segRom a => a.toNat
  | .divRom s => s.toNat
  | .selDec p => p.toNat

/-- A row matches a word of its group when the word under the row's mask is the row's pattern (R48). -/
def rowMatches (x : InputWord) (r : OpcodeRow) : Bool :=
  r.group == groupOf x && (bitsOf x &&& r.mask) == r.pattern

/-- Why a bare word is refused: the one reason is that it is wider than every group's input (R55: the widths are fixed). Safe. -/
inductive WordRefusal where
  | wordTooWide (nbits w : Nat)
  deriving DecidableEq, Repr

/-- The input word that a BARE table word stands for. A bare word does not say its group and the groups' words overlap, so the reading
is a DESIGN CHOICE (log entry 10): a width of 2, 3 or 4 bits names the first group of that width in the table's order, and in any other
width (whole bytes) the word belongs to the first group of the table that can hold it: the event words 0..3, then the segment ROM
addresses 4..15. -/
def readTableWord (nbits w : Nat) : Except WordRefusal InputWord :=
  if nbits = 3 ∧ w < 8 then .ok (.selDec (BitVec.ofNat 3 w))
  else if nbits = 4 ∧ w < 16 then .ok (.segRom (BitVec.ofNat 4 w))
  else if w < 4 ∧ 2 ≤ nbits then .ok (.event (BitVec.ofNat 2 w))
  else if w < 16 ∧ 4 < nbits then .ok (.segRom (BitVec.ofNat 4 w))
  else .error (.wordTooWide nbits w)

/-- The operation the decoder reads from a bare table word, `none` where the word is refused. -/
def decodeTableWord (nbits w : Nat) : Option Instr :=
  match readTableWord nbits w with
  | .ok x => some (decode x)
  | .error _ => none

end Sys2Proof
end

