-- ==== Sys2Proof/Config.lean ====
section
/-! DEFINITION. The configuration of the block (spec/00_scope.md R6 to R11; spec/10_state.md R20, R29), the reasons for refusing one
(spec/60_exceptions.md R83), and the free values: constants without a body, so that nothing can be proved of what they are. -/

namespace Sys2Proof

/-- `PIN_MAP` (R11): a physical output line for EACH of the 8 logical digit-select lines and the 7 logical segment lines, and the electrical
polarity of the digit-select lines, which spec/92_eei_decisions.md D7 makes a part of it. Total by its type. Its form is a DESIGN CHOICE
(log entry 6). -/
structure PinMap where
  /-- The physical line of digit-select line `p`. -/
  selPin : Vector Nat 8
  /-- The physical line of segment line `i`. -/
  segPin : Vector Nat 7
  /-- Whether digit-select line `p` is asserted by a low level; the source says it of no line (D7). -/
  selActiveLow : Vector Bool 8
  deriving DecidableEq, Repr, Inhabited

/-- A configuration AS GIVEN, before it is checked (R83). `DIGITS_NUM` is fixed at 4 and is no parameter (R6). -/
structure Config where
  /-- `R`, the parameter `ROUND_PER_COUNT` (R7). -/
  roundPerCount : Nat
  /-- `W`, the width of the tick counter in bits (R9). -/
  counterWidth : Nat
  /-- `SEG_TABLE` (R10): entry `d` is the pattern of digit `d`, `none` where it is undefined. -/
  segTable : List (Option Nat)
  /-- `TICK_PERIOD_US` (R11): read by no rule of the model. -/
  tickPeriodUs : Nat
  /-- `PIN_MAP` (R11): read by no rule of the model. -/
  pinMap : PinMap
  deriving DecidableEq, Repr

/-- The closed list of R83: why a configuration is refused. All three are safe: a refused machine takes no step. -/
inductive ConfigRefusal where
  /-- `CONFIG_R_ZERO`: `R = 0`. -/
  | rZero
  /-- `CONFIG_COUNTER_WIDTH`: `40000 * R > 2^W`. -/
  | counterWidth
  /-- `CONFIG_SEG_TABLE`: a digit's entry is undefined or wider than 7 bits. -/
  | segTable
  deriving DecidableEq, Repr

/-- FREE VALUE (log entry 2): what `sel_q` holds after the `n`th latch draw (spec/43_multiplex_scheduler.md R78). -/
opaque Config.selDraw : Nat → SelectWord

/-- FREE VALUE (log entry 2): what `seg_q` holds after the `n`th latch draw (R78). -/
opaque Config.segDraw : Nat → Pattern

/-- FREE VALUE (log entry 3): the `n`th event word the environment itself delivers (spec/60_exceptions.md R85). -/
opaque Config.envEvent : Nat → EventWord

/-- FREE VALUE (log entry 6): the tick period of `State.reset`'s configuration; the source gives none (R11). -/
opaque Config.openTickPeriodUs : Nat

/-- FREE VALUE (log entry 6): the pin map of `State.reset`'s configuration; the source gives none (R11). -/
opaque Config.openPinMap : PinMap

end Sys2Proof
end

