-- ==== Sys2Proof/Machine/ConfigCheck.lean ====
section
/-! DEFINITION. The values derived from a configuration (spec/00_scope.md R8, R10; spec/70_reset_and_hazards.md R102), the check a
configuration passes before the first step (spec/60_exceptions.md R83), and the configuration `State.reset` has. -/

namespace Sys2Proof

/-- `DIGITS_NUM`, written `D`: fixed at 4 (R6, spec/90_conflicts.md C4). -/
def digitsNum : Nat := 4

/-- `M`, the wrap modulus of the tick counter: `M = D * R * 10000 = 40000 * R` (R8). -/
def Config.modulus (c : Config) : Nat := 40000 * c.roundPerCount

/-- `SEG_TABLE(d)` where it is defined and no wider than 7 bits (R10, R83). -/
def Config.segEntry (c : Config) (d : Nat) : Option Pattern :=
  match c.segTable[d]? with
  | some (some n) => if n < 128 then some (BitVec.ofNat 7 n) else none
  | _ => none

/-- `SEG_TABLE` is total on 0..9 with entries of 7 bits (R83). -/
def Config.segTableOk (c : Config) : Bool := (List.range 10).all fun d => (c.segEntry d).isSome

/-- The refusal of a configuration, if it is refused (R83). The order in which the three conditions are looked at is a DESIGN CHOICE
(log entry 8): it decides only which reason is named. -/
def Config.check (c : Config) : Option ConfigRefusal :=
  if c.roundPerCount = 0 then some .rZero
  else if 2 ^ c.counterWidth < c.modulus then some .counterWidth
  else if c.segTableOk then none
  else some .segTable

/-- The default table of R10, from general knowledge as R10 itself says (PRESUMED, log entry 5). -/
def Config.defaultSegTable : List (Option Nat) :=
  [some 0x3F, some 0x06, some 0x5B, some 0x4F, some 0x66, some 0x6D, some 0x7D, some 0x07, some 0x7F, some 0x6F]

/-- The configuration of `State.reset` (DESIGN CHOICE, log entry 5): `R = 25` as in the source's scenario (R7), `W = 32` and the
table as the spec's defaults (R9, R10), the two unread parameters free (R11). -/
def Config.standard : Config where
  roundPerCount := 25
  counterWidth := 32
  segTable := Config.defaultSegTable
  tickPeriodUs := Config.openTickPeriodUs
  pinMap := Config.openPinMap

/-- The physical line behind OUT line `i` (R11, spec/20_memory.md R33): OUT lines 0..7 are the digit-select lines, 8..14 the segment
lines. -/
def Config.physicalLine (c : Config) (i : Fin 15) : Nat :=
  if h : i.val < 8 then c.pinMap.selPin[i.val] else c.pinMap.segPin[i.val - 8]

/-- The electrical level (1 is high) of digit-select line `p` at the logical level `on`: the polarity is a part of `PIN_MAP`
(spec/92_eei_decisions.md D7). -/
def Config.selectLevel (c : Config) (p : Fin 8) (on : Bool) : Bool := on ^^ c.pinMap.selActiveLow[p.val]

/-- R102, in microseconds: how long one digit slot is lit, `T`. -/
def Config.slotPeriodUs (c : Config) : Nat := c.tickPeriodUs

/-- R102: one full refresh of slots 0..3, `4T`. -/
def Config.refreshPeriodUs (c : Config) : Nat := digitsNum * c.tickPeriodUs

/-- R102: from one displayed value to the next, `4RT`. -/
def Config.valuePeriodUs (c : Config) : Nat := digitsNum * c.roundPerCount * c.tickPeriodUs

/-- R102: the counter's wrap, `M * T`. -/
def Config.wrapPeriodUs (c : Config) : Nat := c.modulus * c.tickPeriodUs

end Sys2Proof
end

