-- ==== Sys2Proof/Machine/State.lean ====
section
/-! DEFINITION. The state of the block (spec/10_state.md R15, R23 to R27, R29), its faults and refusals, and the state after reset. -/

namespace Sys2Proof.Machine

/-- The closed list of faults (spec/60_exceptions.md R81). -/
inductive Fault where
  /-- `SEG_ROM_RANGE(a)`, raised by ENCODE at an address `a` in 10..15 (spec/40_segment_rom.md R59). A step RAISES it as a next state
  with the mark set; a step of a state that holds the mark ANSWERS with it (R88). Safe: the machine only stops. -/
  | segRomRange (a : SegAddr)
  deriving DecidableEq, Repr

/-- Why a step has no meaning. -/
inductive Refusal where
  /-- An operation without a meaning yet; no arm of `exec` answers with it. Safe. -/
  | notModelled (mnemonic : String)
  /-- A refused configuration takes no step (R83): answered by every operation. Safe. -/
  | config (r : ConfigRefusal)
  deriving DecidableEq, Repr

/-- One element of the output trace (spec/10_state.md R25). -/
inductive TraceItem where
  /-- One masked write of OUT, as spec/20_memory.md R34 appends it: the value is already under the mask. -/
  | write (mask value : Lines)
  /-- The marker a RESET appends. -/
  | resetMark
  deriving DecidableEq, Repr

/-- What a unit used on its own returned: the output of ENCODE (R58), DIVSEL (R63) or SELDEC (R69). -/
inductive LookupResult where
  | pattern (pat : Pattern)
  | divisor (div : Divisor)
  | selectWord (selw : SelectWord)
  deriving DecidableEq, Repr

end Sys2Proof.Machine

namespace Sys2Proof.Machine

/-- The state. The fields `lookup`, `draws`, `inputs` and `envSteps` are the MODEL's own (log entries 1 to 3); `cfg` never changes
(spec/10_state.md R20, R30). -/
structure State where
  /-- The configuration, SEGROM's contents among it (R20, R21). -/
  cfg : Config
  /-- The tick counter (R15), a natural (log entry 4). -/
  t : Nat
  /-- `sel_q[7:0]` (R23). -/
  selQ : SelectWord
  /-- `seg_q[6:0]` (R24). -/
  segQ : Pattern
  /-- The output trace, oldest first (R25). -/
  trace : List TraceItem
  /-- The fault mark (R26). -/
  fault : Option Fault
  /-- The refusal mark (R27). -/
  refused : Option ConfigRefusal
  /-- MODEL: what the last stand-alone lookup returned (log entry 1). -/
  lookup : Option LookupResult
  /-- MODEL: how many latch draws have been made (log entry 2). -/
  draws : Nat
  /-- MODEL: the input words still to be consumed, oldest first (log entry 3). -/
  inputs : List InputWord
  /-- MODEL: how many event words were drawn from the environment (log entry 3). -/
  envSteps : Nat
  deriving DecidableEq, Repr

/-- The state right after the RESET that starts a run (spec/70_reset_and_hazards.md R96, R97) of a machine with configuration `c`: the
counter 0, the latches at the first draw, one marker in the trace, no fault, and the refusal mark as the check of R83 sets it.
FOR A REFUSED CONFIGURATION no RESET is taken (R78, R83) and the spec leaves the state undefined (R97,
spec/93_implementation_defined.md U3): that the counter, the latches and the trace hold the same values there is the model's
DESIGN CHOICE (log entry 13). -/
def State.resetWith (c : Config) : State where
  cfg := c
  t := 0
  selQ := Config.selDraw 0
  segQ := Config.segDraw 0
  trace := [.resetMark]
  fault := none
  refused := c.check
  lookup := none
  draws := 1
  inputs := []
  envSteps := 0

/-- The machine right after reset, with the configuration of log entry 5. -/
def State.reset : State := State.resetWith Config.standard

end Sys2Proof.Machine
end

