-- ==== Sys2Proof/Machine/Flags.lean ====
section
/-! DEFINITION. The block has no flags (spec/10_state.md R19). What stands in their place: the two marks, `fault` and `refused`, that
decide whether a step is taken at all, raising a fault, and the output ports. -/

namespace Sys2Proof.Machine

/-- The three outcomes of a step of this machine. -/
abbrev StepOutcome := Host.Outcome State Fault Refusal

/-- `k s` where the machine takes steps. A refused configuration takes no step, whether the mark says so or the configuration fails
its check (spec/60_exceptions.md R83), and a faulted state takes no further step of any event, RESET included (R88). -/
def State.whenLive (s : State) (k : State → StepOutcome) : StepOutcome :=
  match s.refused with
  | some r => .refused (.config r)
  | none =>
    match s.cfg.check with
    | some r => .refused (.config r)
    | none =>
      match s.fault with
      | some f => .fault f
      | none => k s

/-- `raise Fault(reason)`: the mark is set and nothing else is written (spec/60_exceptions.md R81). -/
def State.raiseFault (s : State) (f : Fault) : State := { s with fault := some f }

/-- The output ports of spec/30_encoding.md R46. -/
structure Ports where
  sel : SelectWord
  seg : Pattern
  cont : BitVec 1
  deriving DecidableEq, Repr

/-- What the output ports carry; `cont` is the constant 1, the "continue" result (spec/43_multiplex_scheduler.md R76). -/
def State.ports (s : State) : Ports := ⟨s.selQ, s.segQ, 1#1⟩

end Sys2Proof.Machine
end

