-- ==== Sys2Proof/Machine/Operands.lean ====
section
/-! DEFINITION. The values a TICK derives from the counter: pure functions, never stored (spec/10_state.md R28). Every one is
unsigned; divisions round down (spec/43_multiplex_scheduler.md R80). -/

namespace Sys2Proof.Machine

/-- DISPVAL: the displayed value `(t / R) / 4` (spec/41_bcd_digit_extractor.md R61). Not cut to 14 bits: for the unreachable
`t >= M` it may exceed 9999 (R65 item 6). -/
def dispVal (r t : Nat) : Nat := t / r / digitsNum

/-- SLOT: `t mod 4` (R62). -/
def slotOf (t : Nat) : Slot := BitVec.ofNat 2 (t % digitsNum)

/-- `MemRead(DIVROM, s)`: the four constant entries, every address defined (spec/20_memory.md R32). -/
def memReadDivRom (s : Slot) : Divisor :=
  match s.toNat with
  | 0 => 1#10
  | 1 => 10#10
  | 2 => 100#10
  | _ => 1000#10

/-- DIGIT: `(v / div) mod 10`, the decimal digit of `v` at the slot whose divisor is `div` (R64). -/
def digitOf (v : Nat) (div : Divisor) : Nat := v / div.toNat % 10

/-- The ENCODE address of a digit, `zext_4(digit)` (spec/30_encoding.md R49). -/
def segAddrOf (d : Nat) : SegAddr := BitVec.ofNat 4 d

/-- PINIDX: `s + 4 * (v mod 2)` (spec/42_digit_selector.md R67). -/
def pinIndexOf (s : Slot) (v : Nat) : PinIndex := BitVec.ofNat 3 (s.toNat + 4 * (v % 2))

/-- `onehot_8(p)`: only bit `p` set (spec/00_scope.md R12). -/
def oneHot8 (p : PinIndex) : SelectWord := 1#8 <<< p.toNat

/-- SELDEC: the select word of a pin index (R69). -/
def selDecode (p : PinIndex) : SelectWord := oneHot8 p

end Sys2Proof.Machine
end

