-- ==== Sys2Proof/Machine/Ops.lean ====
section
/-! DEFINITION. The named operations over the spaces and the state: reading SEGROM, ENCODE with its fault, the masked write of OUT, the
output request, the advance, the reset, and taking the next input word. -/

namespace Sys2Proof.Machine

/-- What a read of SEGROM answers (spec/20_memory.md R31). -/
inductive RomRead where
  /-- A defined entry. -/
  | entry (pat : Pattern)
  /-- An address 10..15, which holds no entry. -/
  | outOfRange (a : SegAddr)
  /-- An address 0..9 for which the configuration gives no 7-bit entry (spec/60_exceptions.md R83, `CONFIG_SEG_TABLE`). -/
  | undefinedEntry
  deriving DecidableEq, Repr

/-- `MemRead(SEGROM, a)` (R31): `SEG_TABLE(a)` for `a <= 9`, no value otherwise. -/
def memReadSegRom (c : Config) (a : SegAddr) : RomRead :=
  if a.toNat ≤ 9 then
    match c.segEntry a.toNat with
    | some pat => .entry pat
    | none => .undefinedEntry
  else .outOfRange a

/-- ENCODE (spec/40_segment_rom.md R58, R59): go on with the pattern of address `a`; at an address 10..15 raise
`SEG_ROM_RANGE(a)`, with no pattern and nothing else written. -/
def State.encodeThen (s : State) (a : SegAddr) (k : Pattern → StepOutcome) : StepOutcome :=
  match memReadSegRom s.cfg a with
  | .entry pat => k pat
  | .outOfRange b => .next (s.raiseFault (.segRomRange b))
  | .undefinedEntry => .refused (.config .segTable)

/-- The 15 output lines `{seg_q, sel_q}` (spec/20_memory.md R33). -/
def State.lines (s : State) : Lines := s.segQ ++ s.selQ

/-- The number whose bits 0 to `n - 1` are those of `f`. -/
def numberOfBits (f : Nat → Bool) : Nat → Nat
  | 0 => 0
  | n + 1 => numberOfBits f n + if f n then 2 ^ n else 0

/-- The masked merge of R34, line by line: a line under the mask takes the value's bit, every other line keeps its own. -/
def mergeBits {w : Nat} (old mask v : BitVec w) : BitVec w :=
  BitVec.ofNat w (numberOfBits (fun i => if mask.getLsbD i then v.getLsbD i else old.getLsbD i) w)

/-- `MemWrite(OUT, mask, v)`: the merge, in one piece, and its record in the trace (R34). The select lines are [7:0] of the mask and the
value, the segment lines [14:8] (R33). -/
def State.memWriteOut (s : State) (mask v : Lines) : State :=
  { s with
    segQ := mergeBits s.segQ (mask.extractLsb' 8 7) (v.extractLsb' 8 7)
    selQ := mergeBits s.selQ (mask.extractLsb' 0 8) (v.extractLsb' 0 8)
    trace := s.trace ++ [.write mask (v &&& mask)] }

/-- W1 of OUTREQ: deassert all 8 digit-select lines (spec/42_digit_selector.md R70). -/
def State.deassertAll (s : State) : State := s.memWriteOut 0x00FF#15 0x0000#15

/-- W2 of OUTREQ: drive all 7 segment lines with `{pat, 0x00}` (R70). -/
def State.driveSegments (s : State) (pat : Pattern) : State := s.memWriteOut 0x7F00#15 (pat ++ 0x00#8)

/-- W3 of OUTREQ: assert exactly the lines of `selw` (R70). -/
def State.assertLine (s : State) (selw : SelectWord) : State :=
  s.memWriteOut (selw.setWidth 15) (selw.setWidth 15)

/-- OUTREQ: the three masked writes of one tick, in this order (R70, spec/20_memory.md R41). -/
def State.outReq (s : State) (pat : Pattern) (selw : SelectWord) : State :=
  ((s.deassertAll).driveSegments pat).assertLine selw

/-- ADVANCE: `t <- (t + 1) mod M`, the sum exact (spec/43_multiplex_scheduler.md R74). -/
def State.advance (s : State) : State := { s with t := (s.t + 1) % s.cfg.modulus }

/-- The effect of RESET (R78): the counter 0, both latches drawn anew (free values, log entry 2), the marker appended. The marks stay. -/
def State.restart (s : State) : State :=
  { s with
    t := 0
    selQ := Config.selDraw s.draws
    segQ := Config.segDraw s.draws
    trace := s.trace ++ [.resetMark]
    draws := s.draws + 1 }

/-- What a unit used on its own returns becomes visible (DESIGN CHOICE, log entry 1). -/
def State.answer (s : State) (r : LookupResult) : State := { s with lookup := some r }

/-- The word the next step consumes: the oldest waiting input. -/
def State.nextWord (s : State) : InputWord :=
  match s.inputs with
  | w :: _ => w
  | [] => .event (Config.envEvent s.envSteps)

/-- The state with that word consumed: the queue's front goes, or, where none waits, the environment's own event is drawn (free value,
log entry 3; spec/60_exceptions.md R85). -/
def State.consume (s : State) : State :=
  match s.inputs with
  | _ :: rest => { s with inputs := rest }
  | [] => { s with envSteps := s.envSteps + 1 }

end Sys2Proof.Machine
end

