-- ==== Sys2Proof/Machine/DivisorRom.lean ====
section
/-! DEFINITION. DIVSEL used on its own, the divisor ROM's rows (spec/41_bcd_digit_extractor.md R63). -/

namespace Sys2Proof.Machine

/-- DIVSEL at slot `s`, outside the tick path: the divisor is returned. -/
def divSelAlone (a : Slot) (s : State) : StepOutcome :=
  s.whenLive fun s => .next (s.answer (.divisor (memReadDivRom a)))

/-- DIV0: the divisor 1 (R63). -/
def execDiv0 (s : State) : StepOutcome := divSelAlone 0#2 s

/-- DIV1: the divisor 10 (R63). -/
def execDiv1 (s : State) : StepOutcome := divSelAlone 1#2 s

/-- DIV2: the divisor 100 (R63). -/
def execDiv2 (s : State) : StepOutcome := divSelAlone 2#2 s

/-- DIV3: the divisor 1000 (R63). -/
def execDiv3 (s : State) : StepOutcome := divSelAlone 3#2 s

end Sys2Proof.Machine
end

