-- ==== Sys2Proof/Machine/Scheduler.lean ====
section
/-! DEFINITION. The events of the multiplex scheduler: IDLE, TICK and RESET (spec/43_multiplex_scheduler.md). -/

namespace Sys2Proof.Machine

/-- IDLE: a step with no event; no state changes (R77). -/
def execIdle (s : State) : StepOutcome := s.whenLive fun s => .next s

/-- TICK: the source's steps 1 to 7 in order, every value from `t` as it was before the step (R73). Step 7, "continue", is the
constant port of `State.ports`. -/
def execTick (s : State) : StepOutcome :=
  s.whenLive fun s =>
    let v := dispVal s.cfg.roundPerCount s.t
    let slot := slotOf s.t
    let d := digitOf v (memReadDivRom slot)
    let p := pinIndexOf slot v
    s.encodeThen (segAddrOf d) fun pat => .next (s.outReq pat (selDecode p)).advance

/-- RESET: back to the startup state (R78). A tick in the same word is dropped, so the operand changes nothing
(spec/60_exceptions.md R87). -/
def execReset (_tick : BitVec 1) (s : State) : StepOutcome := s.whenLive fun s => .next s.restart

end Sys2Proof.Machine
end

