-- ==== Sys2Proof/Machine/SegmentRom.lean ====
section
/-! DEFINITION. ENCODE used on its own, the segment ROM's rows (spec/40_segment_rom.md R58, R59; spec/90_conflicts.md C2). -/

namespace Sys2Proof.Machine

/-- ENCODE at address `a`, outside the tick path: the pattern is returned, or the fault of R59 is raised. -/
def encodeAlone (a : SegAddr) (s : State) : StepOutcome :=
  s.whenLive fun s => s.encodeThen a fun pat => .next (s.answer (.pattern pat))

/-- ENC0: `SEG_TABLE(0)` (R58). -/
def execEnc0 (s : State) : StepOutcome := encodeAlone 0#4 s

/-- ENC1: `SEG_TABLE(1)` (R58). -/
def execEnc1 (s : State) : StepOutcome := encodeAlone 1#4 s

/-- ENC2: `SEG_TABLE(2)` (R58). -/
def execEnc2 (s : State) : StepOutcome := encodeAlone 2#4 s

/-- ENC3: `SEG_TABLE(3)` (R58). -/
def execEnc3 (s : State) : StepOutcome := encodeAlone 3#4 s

/-- ENC4: `SEG_TABLE(4)` (R58). -/
def execEnc4 (s : State) : StepOutcome := encodeAlone 4#4 s

/-- ENC5: `SEG_TABLE(5)` (R58). -/
def execEnc5 (s : State) : StepOutcome := encodeAlone 5#4 s

/-- ENC6: `SEG_TABLE(6)` (R58). -/
def execEnc6 (s : State) : StepOutcome := encodeAlone 6#4 s

/-- ENC7: `SEG_TABLE(7)` (R58). -/
def execEnc7 (s : State) : StepOutcome := encodeAlone 7#4 s

/-- ENC8: `SEG_TABLE(8)` (R58). -/
def execEnc8 (s : State) : StepOutcome := encodeAlone 8#4 s

/-- ENC9: `SEG_TABLE(9)` (R58). -/
def execEnc9 (s : State) : StepOutcome := encodeAlone 9#4 s

/-- ENC_ILL_A, `101x`: ENCODE at an address 10 or 11 raises `SEG_ROM_RANGE(a)` (R59). -/
def execEncIllA (a : SegAddr) (s : State) : StepOutcome := encodeAlone a s

/-- ENC_ILL_C, `11xx`: ENCODE at an address 12 to 15 raises `SEG_ROM_RANGE(a)` (R59). -/
def execEncIllC (a : SegAddr) (s : State) : StepOutcome := encodeAlone a s

end Sys2Proof.Machine
end

