-- ==== Sys2Proof/Machine/SelectDecoder.lean ====
section
/-! DEFINITION. SELDEC used on its own, the select decoder's rows (spec/42_digit_selector.md R69). -/

namespace Sys2Proof.Machine

/-- SELDEC at pin index `p`, outside the tick path: the select word is returned. -/
def selDecAlone (p : PinIndex) (s : State) : StepOutcome :=
  s.whenLive fun s => .next (s.answer (.selectWord (selDecode p)))

/-- SEL0: the select word 0x01 (R69). -/
def execSel0 (s : State) : StepOutcome := selDecAlone 0#3 s

/-- SEL1: the select word 0x02 (R69). -/
def execSel1 (s : State) : StepOutcome := selDecAlone 1#3 s

/-- SEL2: the select word 0x04 (R69). -/
def execSel2 (s : State) : StepOutcome := selDecAlone 2#3 s

/-- SEL3: the select word 0x08 (R69). -/
def execSel3 (s : State) : StepOutcome := selDecAlone 3#3 s

/-- SEL4: the select word 0x10 (R69). -/
def execSel4 (s : State) : StepOutcome := selDecAlone 4#3 s

/-- SEL5: the select word 0x20 (R69). -/
def execSel5 (s : State) : StepOutcome := selDecAlone 5#3 s

/-- SEL6: the select word 0x40 (R69). -/
def execSel6 (s : State) : StepOutcome := selDecAlone 6#3 s

/-- SEL7: the select word 0x80 (R69). -/
def execSel7 (s : State) : StepOutcome := selDecAlone 7#3 s

end Sys2Proof.Machine
end

