-- ==== Sys2Proof/Machine/Dispatch.lean ====
section
/-! DEFINITION. The meaning of every operation, one arm per constructor of Instr. -/

namespace Sys2Proof.Machine

/-- The meaning of an operation: one arm per row of the opcode table. -/
def exec (i : Instr) (s : State) : Host.Outcome State Fault Refusal :=
  match i with
  | .idle => Sys2Proof.Machine.execIdle s
  | .tick => Sys2Proof.Machine.execTick s
  | .reset tick => Sys2Proof.Machine.execReset tick s
  | .enc0 => Sys2Proof.Machine.execEnc0 s
  | .enc1 => Sys2Proof.Machine.execEnc1 s
  | .enc2 => Sys2Proof.Machine.execEnc2 s
  | .enc3 => Sys2Proof.Machine.execEnc3 s
  | .enc4 => Sys2Proof.Machine.execEnc4 s
  | .enc5 => Sys2Proof.Machine.execEnc5 s
  | .enc6 => Sys2Proof.Machine.execEnc6 s
  | .enc7 => Sys2Proof.Machine.execEnc7 s
  | .enc8 => Sys2Proof.Machine.execEnc8 s
  | .enc9 => Sys2Proof.Machine.execEnc9 s
  | .encIllA a => Sys2Proof.Machine.execEncIllA a s
  | .encIllC a => Sys2Proof.Machine.execEncIllC a s
  | .div0 => Sys2Proof.Machine.execDiv0 s
  | .div1 => Sys2Proof.Machine.execDiv1 s
  | .div2 => Sys2Proof.Machine.execDiv2 s
  | .div3 => Sys2Proof.Machine.execDiv3 s
  | .sel0 => Sys2Proof.Machine.execSel0 s
  | .sel1 => Sys2Proof.Machine.execSel1 s
  | .sel2 => Sys2Proof.Machine.execSel2 s
  | .sel3 => Sys2Proof.Machine.execSel3 s
  | .sel4 => Sys2Proof.Machine.execSel4 s
  | .sel5 => Sys2Proof.Machine.execSel5 s
  | .sel6 => Sys2Proof.Machine.execSel6 s
  | .sel7 => Sys2Proof.Machine.execSel7 s

end Sys2Proof.Machine
end

