-- ==== Sys2Proof/Machine/Step.lean ====
section
/-! DEFINITION. One step: the next input word is consumed, decoded and executed (spec/00_scope.md R13; spec/30_encoding.md R47). -/

namespace Sys2Proof.Machine

/-- One step consumes one input word (R47). -/
def step (s : State) : Host.Outcome State Fault Refusal := exec (decode s.nextWord) s.consume

/-- `s` with a bare table word placed where `step` takes its next input: in front of the queue. The block fetches nothing
(spec/20_memory.md R44), so nothing else is needed. A word that is refused (log entry 10) places nothing. -/
def State.withFetchWord (s : State) (nbits w : Nat) : State :=
  match readTableWord nbits w with
  | .ok x => { s with inputs := x :: s.inputs }
  | .error _ => s

end Sys2Proof.Machine
end

