-- ==== Sys2Proof/Machine/EventProgram.lean ====
section
/-! DEFINITION. Event programs: the notation of spec/30_encoding.md R56 and R57, its text, and the input words it stands for. -/

namespace Sys2Proof.Machine

/-- One line of an event program (R56, R57). -/
inductive EventLine where
  | reset
  | tick
  | idle
  /-- `RESET+TICK`: means the same as `RESET`. -/
  | resetTick
  /-- `TICK*n`. -/
  | ticks (n : Nat)
  /-- `IDLE*n`. -/
  | idles (n : Nat)
  /-- `STEPTO k`. -/
  | stepTo (k : Nat)
  deriving DecidableEq, Repr

/-- The event words of one line (R56, R57): `RESET` = 10, `TICK` = 01, `IDLE` = 00, `RESET+TICK` = 11. -/
def lineWords : EventLine → List EventWord
  | .reset => [0b10#2]
  | .tick => [0b01#2]
  | .idle => [0b00#2]
  | .resetTick => [0b11#2]
  | .ticks n => List.replicate n 0b01#2
  | .idles n => List.replicate n 0b00#2
  | .stepTo k => List.replicate k 0b01#2

/-- Whether the counter is still fresh after a line: a RESET has come and no TICK since (R57). -/
def freshAfter (fresh : Bool) : EventLine → Bool
  | .reset | .resetTick => true
  | .tick => false
  | .idle | .idles _ => fresh
  | .ticks n | .stepTo n => fresh && n == 0

/-- Every `STEPTO` stands where R57 allows it: after a RESET with no TICK between them. IDLE lines between them are allowed (DEDUCED, log
entry 11). -/
def programOk (fresh : Bool) : List EventLine → Bool
  | [] => true
  | .stepTo k :: rest => fresh && programOk (freshAfter fresh (.stepTo k)) rest
  | l :: rest => programOk (freshAfter fresh l) rest

/-- The input words of a program, `none` where a `STEPTO` is misplaced. -/
def assembleProgram (p : List EventLine) : Option (List InputWord) :=
  if programOk false p then some ((p.flatMap lineWords).map .event) else none

/-- The state with an event program waiting. -/
def State.loadInputs (s : State) (ws : List InputWord) : State := { s with inputs := ws }

/-- A line's text up to its comment: `;` runs to the end of the line (R56). -/
def stripComment (cs : List Char) : List Char := cs.takeWhile (· ≠ ';')

/-- Blanks around a line's text are dropped (DESIGN CHOICE, log entry 11). -/
def trimBlanks (cs : List Char) : List Char :=
  ((cs.dropWhile (· = ' ')).reverse.dropWhile (· = ' ')).reverse

/-- A decimal number of one digit or more. -/
def decimalOf : List Char → Option Nat
  | [] => none
  | cs => if cs.all Char.isDigit then some (cs.foldl (fun n c => 10 * n + (c.toNat - '0'.toNat)) 0) else none

/-- One line of text: `none` for text that is no line of R56 or R57, `some none` for a line that holds only a comment. -/
def parseLine (cs : List Char) : Option (Option EventLine) :=
  match trimBlanks (stripComment cs) with
  | [] => some none
  | ['R', 'E', 'S', 'E', 'T'] => some (some .reset)
  | ['T', 'I', 'C', 'K'] => some (some .tick)
  | ['I', 'D', 'L', 'E'] => some (some .idle)
  | ['R', 'E', 'S', 'E', 'T', '+', 'T', 'I', 'C', 'K'] => some (some .resetTick)
  | 'T' :: 'I' :: 'C' :: 'K' :: '*' :: n => (decimalOf n).map fun k => some (.ticks k)
  | 'I' :: 'D' :: 'L' :: 'E' :: '*' :: n => (decimalOf n).map fun k => some (.idles k)
  | 'S' :: 'T' :: 'E' :: 'P' :: 'T' :: 'O' :: ' ' :: n => (decimalOf (trimBlanks n)).map fun k => some (.stepTo k)
  | _ => none

/-- A program's text, one line each (R56); `none` where some line is no line of the notation. -/
def parseProgram : List (List Char) → Option (List EventLine)
  | [] => some []
  | cs :: rest =>
    match parseLine cs, parseProgram rest with
    | some (some l), some p => some (l :: p)
    | some none, some p => some p
    | _, _ => none

end Sys2Proof.Machine
end

