-- ==== Sys2Proof/Safety.lean ====
section
/-! DEFINITION. The terms claims are stated in: when the machine takes steps, what a TICK is wanted to show (written from the rules in
plain numbers, beside the model's own functions), how the trace is read, and the invariants. -/

namespace Sys2Proof.Machine

/-- The machine takes steps: the configuration is accepted and neither mark is set (spec/60_exceptions.md R83, R88). -/
abbrev State.Live (s : State) : Prop := s.refused = none ∧ s.cfg.check = none ∧ s.fault = none

/-- The word is one of the block's own port, not a stand-alone lookup of the model's (spec/30_encoding.md R46). -/
def isEvent : InputWord → Bool
  | .event _ => true
  | .segRom _ => false
  | .divRom _ => false
  | .selDec _ => false

/-- Only event words wait. -/
abbrev State.EventsOnly (s : State) : Prop := ∀ x ∈ s.inputs, isEvent x = true

/-- The value shown at counter `t`: one division by `4R` (spec/41_bcd_digit_extractor.md R66). -/
def wantedValue (c : Config) (t : Nat) : Nat := t / (4 * c.roundPerCount)

/-- The digit shown at counter `t`: decimal digit number `t mod 4` of the value (R62, R64). -/
def wantedDigit (c : Config) (t : Nat) : Nat := wantedValue c t / 10 ^ (t % 4) % 10

/-- The line asserted at counter `t` (spec/42_digit_selector.md R67). -/
def wantedLine (c : Config) (t : Nat) : Nat := t % 4 + 4 * (wantedValue c t % 2)

/-- The three writes of a tick that shows `pat` on line `p`, in order (R70). -/
def wantedWrites (pat : Pattern) (p : Nat) : List TraceItem :=
  [.write 0x00FF#15 0#15,
   .write 0x7F00#15 (BitVec.ofNat 15 (256 * pat.toNat)),
   .write (BitVec.ofNat 15 (2 ^ p)) (BitVec.ofNat 15 (2 ^ p))]

/-- The writes of the TICK at counter `t`. -/
def wantedTick (c : Config) (t : Nat) : List TraceItem :=
  match c.segEntry (wantedDigit c t) with
  | some pat => wantedWrites pat (wantedLine c t)
  | none => []

/-- The trace after its last RESET marker (spec/10_state.md R25). -/
def sinceReset (tr : List TraceItem) : List TraceItem :=
  tr.foldl (fun acc x => if x = .resetMark then [] else acc ++ [x]) []

/-- The lines after one trace element: a masked write as spec/20_memory.md R34 says; a marker writes nothing. -/
def replayItem (l : Lines) : TraceItem → Lines
  | .write mask v => (l &&& ~~~mask) ||| (v &&& mask)
  | .resetMark => l

/-- The lines after a list of writes, oldest first. -/
def replay (l : Lines) (ws : List TraceItem) : Lines := ws.foldl replayItem l

/-- No two digit-select lines are asserted (spec/42_digit_selector.md R72). -/
def atMostOneLine (l : Lines) : Prop :=
  ∀ i < 8, ∀ j < 8, l.getLsbD i = true → l.getLsbD j = true → i = j

/-- Exactly one digit-select line is asserted (R72). -/
def exactlyOneLine (l : Lines) : Prop := (∃ i < 8, l.getLsbD i = true) ∧ atMostOneLine l

/-- The counter is below its modulus in an accepted configuration (spec/10_state.md R16). -/
def State.CounterInv (s : State) : Prop := s.cfg.check = none ∧ s.t < s.cfg.modulus

/-- The block alone, with an accepted configuration and no mark (spec/60_exceptions.md R82). -/
def State.SafeInv (s : State) : Prop := s.Live ∧ s.EventsOnly ∧ s.t < s.cfg.modulus

/-- What the display has done since the last RESET: for some number `n` of TICKs, the counter is `n mod M`, the trace holds the writes
of TICKs 0 to `n - 1` and nothing else, and, if there was a TICK, the latches hold the last one's request (R72, spec/43 R73 to R75). -/
def State.DisplayInv (s : State) : Prop :=
  s.cfg.check = none ∧
  ∃ n : Nat,
    s.t = n % s.cfg.modulus ∧
    sinceReset s.trace = (List.range n).flatMap (fun k => wantedTick s.cfg (k % s.cfg.modulus)) ∧
    (n ≠ 0 →
      s.selQ = BitVec.ofNat 8 (2 ^ wantedLine s.cfg ((n - 1) % s.cfg.modulus)) ∧
      s.cfg.segEntry (wantedDigit s.cfg ((n - 1) % s.cfg.modulus)) = some s.segQ)

end Sys2Proof.Machine
end

