-- ==== Sys2Proof/Certificates/Slice0/Obligations.lean ====
section
/-! DEFINITION. The statements for the provers. Each docstring names the rules of spec/ it formalises. -/

open Sys2Proof Sys2Proof.Machine

-- Decoding and encoding

/-- R48: the four event codes, all defined, none illegal. -/
def Obligations.EventCodesDecode : Prop :=
  decode (.event 0b00#2) = .idle ∧ decode (.event 0b01#2) = .tick ∧
  decode (.event 0b10#2) = .reset 0#1 ∧ decode (.event 0b11#2) = .reset 1#1

/-- R49 to R52, R54: a word of each other group, written out from the table, decodes to the operation of its row. -/
def Obligations.UnitWordsDecode : Prop :=
  decode (.segRom 0b0100#4) = .enc4 ∧ decode (.segRom 0b1001#4) = .enc9 ∧
  decode (.segRom 0b1011#4) = .encIllA 0b1011#4 ∧ decode (.segRom 0b1110#4) = .encIllC 0b1110#4 ∧
  decode (.divRom 0b10#2) = .div2 ∧ decode (.selDec 0b101#3) = .sel5

/-- R47 to R52: decoding the word of a well-formed operation gives it back, with every operand. -/
def Obligations.DecodeOfEncode : Prop :=
  ∀ i : Instr, i.wf = true → decode (encode i) = i

/-- R48 to R52: every input word decodes to a well-formed operation whose word it is, so no bit of a word is dropped. -/
def Obligations.EncodeOfDecode : Prop :=
  ∀ x : InputWord, (decode x).wf = true ∧ encode (decode x) = x

/-- R54: for a given group and input exactly one row of the opcode table matches, and it is the row of the decoded operation. -/
def Obligations.ExactlyOneRowMatches : Prop :=
  ∀ x : InputWord, ∃ r ∈ opcodeTable, r.name = mnemonicOf (decode x) ∧
    ∀ r' ∈ opcodeTable, (rowMatches x r' = true ↔ r' = r)

-- One step

/-- R13, R47: a step consumes the oldest waiting word and runs the operation it decodes to; where none waits, it consumes an event word of
the environment's own (the free value of log entry 3, R85). -/
def Obligations.StepRunsDecodedWord : Prop :=
  (∀ (s : State) (x : InputWord) (rest : List InputWord), s.inputs = x :: rest →
    step s = exec (decode x) { s with inputs := rest }) ∧
  (∀ s : State, s.inputs = [] →
    step s = exec (decode (.event (Config.envEvent s.envSteps))) { s with envSteps := s.envSteps + 1 })

/-- R47, R54: a table word placed at the input is exactly what the next step runs (the reading of a bare word and the place in front
of the queue are the model's choices, log entries 10 and 3). -/
def Obligations.PlacedWordRuns : Prop :=
  ∀ (s : State) (nbits w : Nat) (i : Instr), decodeTableWord nbits w = some i →
    step (s.withFetchWord nbits w) = exec i s

-- The marks and the configuration

/-- R83: a configuration is accepted exactly when `R >= 1`, `40000 * R <= 2^W` and every digit has an entry of 7 bits; otherwise the
reason named is one whose condition holds (which one, where several do, is the model's choice, log entry 8). -/
def Obligations.ConfigurationVerdict : Prop :=
  ∀ c : Config,
    (c.check = none ↔ 1 ≤ c.roundPerCount ∧ 40000 * c.roundPerCount ≤ 2 ^ c.counterWidth ∧
      ∀ d < 10, ∃ n < 128, c.segTable[d]? = some (some n)) ∧
    (c.check = some .rZero → c.roundPerCount = 0) ∧
    (c.check = some .counterWidth → 2 ^ c.counterWidth < 40000 * c.roundPerCount) ∧
    (c.check = some .segTable → ∃ d < 10, ∀ n < 128, c.segTable[d]? ≠ some (some n))

/-- R9: with `W = 32` and an accepted table, exactly `1 <= R <= 107374` is allowed. -/
def Obligations.ThirtyTwoBitCounterAllows : Prop :=
  ∀ c : Config, c.counterWidth = 32 → c.segTableOk = true →
    (c.check = none ↔ 1 ≤ c.roundPerCount ∧ c.roundPerCount ≤ 107374)

/-- R83, R27: a refused configuration takes no step, whatever the operation or the waiting word. That an unmarked state whose configuration
fails the check is refused, that the mark's reason goes before the check's, and that a refusal goes before a fault mark, are the model's
choices (log entry 8, DESIGN CHOICE). -/
def Obligations.RefusedConfigurationTakesNoStep : Prop :=
  ∀ (i : Instr) (s : State) (r : ConfigRefusal),
    (s.refused = some r ∨ (s.refused = none ∧ s.cfg.check = some r)) →
    exec i s = .refused (.config r) ∧ step s = .refused (.config r)

/-- R88, R26: in an accepted configuration a faulted state takes no further step of any event, RESET included. That such a step
answers the fault outcome with the reason the mark holds is the model's reading (log entry 7, DEDUCED). -/
def Obligations.FaultedStateTakesNoStep : Prop :=
  ∀ (i : Instr) (s : State) (f : Fault), s.refused = none → s.cfg.check = none → s.fault = some f →
    exec i s = .fault f ∧ step s = .fault f

-- TICK

/-- R73: TICK of a live state answers the state the source's steps 1 to 7 give, everything computed from the old `t`; ENCODE at an
address of 10 or more would raise its fault with no write and no advance; `cont` is always 1. That raising
the fault answers a next state with the mark set is the model's reading (log entry 7, DEDUCED). -/
def Obligations.TickResult : Prop :=
  decode (.event 0b01#2) = .tick ∧
  (∀ s : State, s.Live → ∃ pat : Pattern,
    s.cfg.segEntry (wantedDigit s.cfg s.t) = some pat ∧
    exec .tick s = .next { s with
      t := (s.t + 1) % (40000 * s.cfg.roundPerCount)
      selQ := BitVec.ofNat 8 (2 ^ wantedLine s.cfg s.t)
      segQ := pat
      trace := s.trace ++ wantedWrites pat (wantedLine s.cfg s.t) }) ∧
  (∀ (s : State) (a : SegAddr) (k : Pattern → StepOutcome), 10 ≤ a.toNat →
    s.encodeThen a k = .next { s with fault := some (.segRomRange a) }) ∧
  (∀ s : State, s.ports.cont = 1#1)

/-- R46, R76: after every TICK the ports carry the one asserted line, the digit's pattern, and `cont = 1`. -/
def Obligations.TickDrivesPorts : Prop :=
  ∀ s : State, s.Live → ∃ s' : State, ∃ pat : Pattern,
    exec .tick s = .next s' ∧ s.cfg.segEntry (wantedDigit s.cfg s.t) = some pat ∧
    s'.ports = ⟨BitVec.ofNat 8 (2 ^ wantedLine s.cfg s.t), pat, 1#1⟩

/-- R74: the advance is `(t + 1) mod M`, below `M` and within `W` bits; `M - 1` goes to 0 and `M - 2` to `M - 1`; the sum never
overflows `W` bits, so a `W`-bit adder gives the same sum; `M` is no power of two. -/
def Obligations.AdvanceWraps : Prop :=
  ∀ s : State, s.Live → s.t < s.cfg.modulus →
    ∃ s' : State, exec .tick s = .next s' ∧
      s'.t = (s.t + 1) % (40000 * s.cfg.roundPerCount) ∧
      s'.t < s.cfg.modulus ∧ s'.t < 2 ^ s.cfg.counterWidth ∧
      (s.t = s.cfg.modulus - 1 → s'.t = 0) ∧
      (s.t + 2 = s.cfg.modulus → s'.t = s.cfg.modulus - 1) ∧
      (BitVec.ofNat s.cfg.counterWidth s.t + 1).toNat = s.t + 1 ∧
      ∀ k : Nat, s.cfg.modulus ≠ 2 ^ k

/-- R73 corner cases, R75: the TICK at 0 drives digit 0 on line 0; the TICK at `M - 1` drives digit 9 on line 7 and wraps to 0. -/
def Obligations.TickAtTheEnds : Prop :=
  ∀ s : State, s.Live →
    (s.t = 0 → ∃ s' : State, exec .tick s = .next s' ∧ s'.t = 1 ∧ s'.selQ = 0x01#8 ∧
      s.cfg.segEntry 0 = some s'.segQ) ∧
    (s.t + 1 = s.cfg.modulus → ∃ s' : State, exec .tick s = .next s' ∧ s'.t = 0 ∧ s'.selQ = 0x80#8 ∧
      s.cfg.segEntry 9 = some s'.segQ)

/-- R79: what a TICK writes is a function of `t` and the configuration alone: from two live states that agree on those, TICK issues the
same three writes and leaves the same counter and latches. -/
def Obligations.TickDependsOnCounterOnly : Prop :=
  ∀ s₁ s₂ : State, s₁.Live → s₂.Live → s₁.cfg = s₂.cfg → s₁.t = s₂.t →
    ∃ s₁' s₂' : State, ∃ ws : List TraceItem,
      exec .tick s₁ = .next s₁' ∧ exec .tick s₂ = .next s₂' ∧ ws.length = 3 ∧
      s₁'.trace = s₁.trace ++ ws ∧ s₂'.trace = s₂.trace ++ ws ∧
      s₁'.t = s₂'.t ∧ s₁'.selQ = s₂'.selQ ∧ s₁'.segQ = s₂'.segQ

-- The OUT space

/-- R34: every line under the mask takes the value's bit and every other line keeps its own, select lines at [7:0] and segment lines at
[14:8]; the write is recorded in the trace; nothing else changes. -/
def Obligations.MaskedWriteMerges : Prop :=
  ∀ (s : State) (mask v : Lines),
    (∀ p < 8, s.lines.getLsbD p = s.selQ.getLsbD p) ∧
    (∀ i < 7, s.lines.getLsbD (8 + i) = s.segQ.getLsbD i) ∧
    (∀ i < 15, (s.memWriteOut mask v).lines.getLsbD i =
      if mask.getLsbD i then v.getLsbD i else s.lines.getLsbD i) ∧
    s.memWriteOut mask v = { s with
      selQ := (s.memWriteOut mask v).selQ
      segQ := (s.memWriteOut mask v).segQ
      trace := s.trace ++ [.write mask (v &&& mask)] }

/-- R71, R23, R30, R78: the line states after W1, W2 and W3 of one output request (R71); the state after W3 holds until the next TICK, or
until a RESET, whose latch draw R78 gives. -/
def Obligations.LineStatesInsideATick : Prop :=
  (∀ (s : State) (pat : Pattern) (p : PinIndex),
    s.deassertAll.selQ = 0x00#8 ∧ s.deassertAll.segQ = s.segQ ∧
    (s.deassertAll.driveSegments pat).selQ = 0x00#8 ∧ (s.deassertAll.driveSegments pat).segQ = pat ∧
    s.outReq pat (selDecode p) = (s.deassertAll.driveSegments pat).assertLine (selDecode p) ∧
    (s.outReq pat (selDecode p)).selQ = BitVec.ofNat 8 (2 ^ p.toNat) ∧ (s.outReq pat (selDecode p)).segQ = pat) ∧
  (∀ (i : Instr) (s s' : State), i ≠ .tick → (∀ b, i ≠ .reset b) → exec i s = .next s' →
    s'.selQ = s.selQ ∧ s'.segQ = s.segQ)

-- IDLE and RESET

/-- R77: IDLE is the word 00, and in a live state it changes nothing. -/
def Obligations.IdleChangesNothing : Prop :=
  decode (.event 0b00#2) = .idle ∧ ∀ s : State, s.Live → exec .idle s = .next s

/-- R78, R96: RESET of a live state sets the counter to 0, draws both latches anew, appends the marker and changes nothing else. The drawn
values are free (log entry 2): `Config.selDraw` and `Config.segDraw` have no body. -/
def Obligations.ResetRestarts : Prop :=
  ∀ (s : State) (b : BitVec 1), s.Live → exec (.reset b) s = .next { s with
    t := 0
    selQ := Config.selDraw s.draws
    segQ := Config.segDraw s.draws
    trace := s.trace ++ [.resetMark]
    draws := s.draws + 1 }

/-- R87: with both bits set the word is a RESET, the tick is dropped, and the step is that of the word with the reset bit alone. -/
def Obligations.ResetBeatsTick : Prop :=
  decode (.event 0b11#2) = .reset 1#1 ∧
  ∀ s : State, s.Live →
    exec (decode (.event 0b11#2)) s = exec (decode (.event 0b10#2)) s ∧
    ∃ s' : State, exec (decode (.event 0b11#2)) s = .next s' ∧ s'.t = 0 ∧ s'.trace = s.trace ++ [.resetMark]

/-- R96, R97, R29: the state a run starts in is what RESET makes of any state of a fresh run, whatever the counter and the latches held
before; `t` is 0, the trace is one marker, there is no fault, and the refusal mark is the check's verdict. The draw
counter, 0 before and 1 after, and draw 0 in the latches are the model's choice (log entry 2); so are `t`, the latches and the trace of a
refused configuration, where the spec leaves them undefined (log entry 13). -/
def Obligations.ResetState : Prop :=
  ∀ (c : Config) (k : Nat) (a : SelectWord) (b : Pattern),
    ({ State.resetWith c with t := k, selQ := a, segQ := b, trace := [], draws := 0 } : State).restart = State.resetWith c ∧
    (State.resetWith c).t = 0 ∧ (State.resetWith c).trace = [.resetMark] ∧ (State.resetWith c).fault = none ∧
    (State.resetWith c).refused = c.check ∧ (State.resetWith c).cfg = c

-- The ROMs and the select decoder, used on their own (log entry 1)

/-- R58, R31: ENC0 to ENC9 of a live state return `SEG_TABLE` of their digit and write no other state. That a row runs on its own,
and where its answer is kept, are the model's choice (log entry 1). -/
def Obligations.EncodeReturnsPattern : Prop :=
  ∀ s : State, s.Live →
    ∀ p ∈ [(Instr.enc0, 0), (.enc1, 1), (.enc2, 2), (.enc3, 3), (.enc4, 4), (.enc5, 5), (.enc6, 6), (.enc7, 7),
        (.enc8, 8), (.enc9, 9)],
      ∃ pat : Pattern, s.cfg.segEntry p.2 = some pat ∧ exec p.1 s = .next { s with lookup := some (.pattern pat) }

/-- R59, R81: ENCODE at an address 10..15 sets the fault mark with that address, returns no pattern and writes nothing else; on a path
that would go on with the pattern, nothing that follows happens. That raising the fault answers a next state with only the mark set is the
model's reading (log entry 7, DEDUCED), and that the row runs on its own its choice (log entry 1, DESIGN CHOICE). -/
def Obligations.EncodeOutOfRangeFaults : Prop :=
  ∀ (s : State) (a : SegAddr), s.Live →
    ((a = 10#4 ∨ a = 11#4) →
      decode (.segRom a) = .encIllA a ∧ exec (.encIllA a) s = .next { s with fault := some (.segRomRange a) }) ∧
    (12 ≤ a.toNat →
      decode (.segRom a) = .encIllC a ∧ exec (.encIllC a) s = .next { s with fault := some (.segRomRange a) }) ∧
    (10 ≤ a.toNat → ∀ k : Pattern → StepOutcome,
      s.encodeThen a k = .next { s with fault := some (.segRomRange a) })

/-- R63, R32: DIV0 to DIV3 of a live state return 1, 10, 100 and 1000 and write no other state. That a row runs on its own, and
where its answer is kept, are the model's choice (log entry 1). -/
def Obligations.DivSelReturnsDivisor : Prop :=
  ∀ s : State, s.Live →
    ∀ p ∈ [(Instr.div0, 1#10), (.div1, 10#10), (.div2, 100#10), (.div3, 1000#10)],
      exec p.1 s = .next { s with lookup := some (.divisor p.2) }

/-- R69: SEL0 to SEL7 of a live state return the word with only the bit of their pin index set and write no other state. That a row runs on
its own, and where its answer is kept, are the model's choice (log entry 1). -/
def Obligations.SelDecReturnsOneHot : Prop :=
  (∀ s : State, s.Live →
    ∀ p ∈ [(Instr.sel0, 0x01#8), (.sel1, 0x02#8), (.sel2, 0x04#8), (.sel3, 0x08#8), (.sel4, 0x10#8), (.sel5, 0x20#8),
        (.sel6, 0x40#8), (.sel7, 0x80#8)],
      exec p.1 s = .next { s with lookup := some (.selectWord p.2) }) ∧
  ∀ (p : PinIndex) (j : Nat), j < 8 → ((selDecode p).getLsbD j = true ↔ j = p.toNat)

-- Frames

/-- R30: TICK changes only `t`, `sel_q`, `seg_q` and `trace`; IDLE changes nothing; RESET changes `t`, `sel_q`, `seg_q` and `trace`
(and the model's draw counter, log entry 2). The configuration, SEGROM with it, is never changed. -/
def Obligations.EventFrames : Prop :=
  ∀ s s' : State,
    (exec .tick s = .next s' → s' = { s with t := s'.t, selQ := s'.selQ, segQ := s'.segQ, trace := s'.trace }) ∧
    (exec .idle s = .next s' → s' = s) ∧
    (∀ b, exec (.reset b) s = .next s' →
      s' = { s with t := s'.t, selQ := s'.selQ, segQ := s'.segQ, trace := s'.trace, draws := s'.draws })

/-- R58, R59, R63, R69, R38: a ROM or decoder used on its own leaves everything but its answer as it was; only the two illegal rows
set the fault mark. R58 says that no state is written: the answer is kept in the MODEL's field `lookup`, its choice (log entry 1, DESIGN
CHOICE), and the fault is raised as log entry 7 (DEDUCED) reads it. -/
def Obligations.LookupFrames : Prop :=
  ∀ (i : Instr) (s s' : State), i ≠ .idle → i ≠ .tick → (∀ b, i ≠ .reset b) → exec i s = .next s' →
    s' = { s with lookup := s'.lookup, fault := s'.fault } ∧
    ((∀ a, i ≠ .encIllA a) → (∀ a, i ≠ .encIllC a) → s'.fault = s.fault)

/-- R15, R17: no operation but TICK and RESET writes the tick counter. -/
def Obligations.OnlyTickAndResetWriteCounter : Prop :=
  ∀ (i : Instr) (s s' : State), exec i s = .next s' → s'.t ≠ s.t → i = .tick ∨ ∃ b, i = .reset b

/-- R20, R27, R30: no step changes the configuration or the refusal mark, and a step is taken only from a state without a fault (the
fault outcome there is log entry 7's reading). -/
def Obligations.ConfigurationAndMarksStay : Prop :=
  ∀ s s' : State, step s = .next s' → s'.cfg = s.cfg ∧ s'.refused = s.refused ∧ s.fault = none

/-- R25, R70: the trace is only appended to: a step appends nothing, one RESET marker, or the three writes of one output request. -/
def Obligations.TraceOnlyGrows : Prop :=
  ∀ s s' : State, step s = .next s' → ∃ ws : List TraceItem, s'.trace = s.trace ++ ws ∧
    (ws = [] ∨ ws = [.resetMark] ∨ ∃ (pat : Pattern) (p : Nat), p < 8 ∧ ws = wantedWrites pat p)

/-- R23, R24, R40: the output lines change only by the writes of the trace: after any step that is no RESET they are what replaying the
step's new trace elements makes of the old lines. -/
def Obligations.LinesFollowTheTrace : Prop :=
  ∀ s s' : State, (∀ b, decode s.nextWord ≠ .reset b) → step s = .next s' →
    ∃ ws : List TraceItem, s'.trace = s.trace ++ ws ∧ s'.lines = replay s.lines ws

-- The derived values

/-- R66: the nested division is the one division by `4R`. -/
def Obligations.NestedDivision : Prop :=
  ∀ r t : Nat, 1 ≤ r → dispVal r t = t / (4 * r)

/-- R62: the slot is `t mod 4`, the two low bits of `t`; the advance takes each slot to the next one round, across the wrap too. -/
def Obligations.SlotGoesRound : Prop :=
  ∀ (c : Config) (t : Nat),
    (slotOf t).toNat = t % 4 ∧ slotOf t = BitVec.ofNat 2 t ∧
    slotOf ((t + 1) % c.modulus) = slotOf t + 1#2

/-- R65 items 1 and 2: below the modulus the displayed value is at most 9999; it is 9999 exactly from `39996R` on and 0 exactly
below `4R`. -/
def Obligations.DisplayedValueRange : Prop :=
  ∀ (c : Config) (t : Nat), 1 ≤ c.roundPerCount → t < c.modulus →
    dispVal c.roundPerCount t ≤ 9999 ∧
    (dispVal c.roundPerCount t = 9999 ↔ 39996 * c.roundPerCount ≤ t) ∧
    (dispVal c.roundPerCount t = 0 ↔ t < 4 * c.roundPerCount)

/-- R65 item 3: the displayed value never falls as `t` rises, and rises by exactly 1 at each multiple of `4R` and nowhere else. -/
def Obligations.DisplayedValueRises : Prop :=
  ∀ r : Nat, 1 ≤ r →
    (∀ t t' : Nat, t ≤ t' → dispVal r t ≤ dispVal r t') ∧
    (∀ t : Nat, dispVal r (t + 1) = dispVal r t + if (t + 1) % (4 * r) = 0 then 1 else 0)

/-- R65 item 4: the ticks with displayed value `v` are the `4R` ticks from `4Rv` on, and in them each slot comes up exactly `R` times. -/
def Obligations.EachSlotRTimesPerValue : Prop :=
  ∀ r v : Nat, 1 ≤ r →
    (∀ t : Nat, dispVal r t = v ↔ 4 * r * v ≤ t ∧ t < 4 * r * v + 4 * r) ∧
    ∀ s : Slot, ((List.range (4 * r)).filter fun i => slotOf (4 * r * v + i) == s).length = r

/-- R65 item 5, R64: the digits of slots 0 to 3 are the decimal digits of the displayed value, least significant first. -/
def Obligations.DigitsRecomposeValue : Prop :=
  ∀ v : Nat, v ≤ 9999 →
    v = digitOf v (memReadDivRom 0#2) + 10 * digitOf v (memReadDivRom 1#2) +
      100 * digitOf v (memReadDivRom 2#2) + 1000 * digitOf v (memReadDivRom 3#2)

/-- R60, R64, R80: whatever the counter, the divisor is not 0, the digit is at most 9, and the ENCODE address is that digit, so the
tick path never reaches an address of 10 or more. -/
def Obligations.TickPathAddressInRange : Prop :=
  ∀ (v : Nat) (s : Slot),
    (memReadDivRom s).toNat = 10 ^ s.toNat ∧
    digitOf v (memReadDivRom s) ≤ 9 ∧ (segAddrOf (digitOf v (memReadDivRom s))).toNat = digitOf v (memReadDivRom s)

/-- R51, R67, R68: the pin index is `s + 4 * (v mod 2)`, the low bit of the value in front of the slot: bank 0 for even values and
bank 1 for odd ones. -/
def Obligations.PinIndexIsBankAndSlot : Prop :=
  ∀ (s : Slot) (v : Nat),
    (pinIndexOf s v).toNat = s.toNat + 4 * (v % 2) ∧
    pinIndexOf s v = BitVec.ofNat 1 v ++ s ∧
    ((pinIndexOf s v).toNat < 4 ↔ v % 2 = 0)

-- Invariants and whole-machine rules

/-- R29, R96: the state after reset of any accepted configuration meets the three invariants, and `State.reset`'s is accepted. -/
def Obligations.ResetMeetsTheInvariants : Prop :=
  (∀ c : Config, c.check = none →
    (State.resetWith c).CounterInv ∧ (State.resetWith c).SafeInv ∧ (State.resetWith c).DisplayInv) ∧
  State.reset.CounterInv ∧ State.reset.SafeInv ∧ State.reset.DisplayInv

/-- R16, R9: every step keeps the counter below its modulus, and so within `W` bits. -/
def Obligations.CounterStaysBelowModulus : Prop :=
  ∀ s s' : State, s.CounterInv → step s = .next s' → s'.CounterInv ∧ s'.t < 2 ^ s'.cfg.counterWidth

/-- R82, R86: from a state of an accepted configuration with no mark and only events waiting, EVERY step completes, with no fault and no
refusal, in a state of the same kind, whatever the environment delivers (its free event words are the model's form, log entry 3). -/
def Obligations.NoRunFaults : Prop :=
  ∀ s : State, s.SafeInv → ∃ s' : State, step s = .next s' ∧ s'.SafeInv

/-- R72 to R75, R91: every step keeps the display's history: the counter is the number of TICKs since the last RESET modulo `M`, the
trace since then holds exactly those TICKs' writes in order, and the latches hold the last one's request. -/
def Obligations.DisplayHistoryKept : Prop :=
  ∀ s s' : State, s.DisplayInv → step s = .next s' → s'.DisplayInv

/-- R72, R99: from the first write after a RESET on, not even between two writes are two digit-select lines asserted at once, whatever
the latches were drawn as. -/
def Obligations.NeverTwoLinesLit : Prop :=
  ∀ s : State, s.DisplayInv → ∀ (l₀ : Lines) (k : Nat), 0 < k → k ≤ (sinceReset s.trace).length →
    atMostOneLine (replay l₀ ((sinceReset s.trace).take k))

/-- R72: after the first TICK since the last RESET, between ticks, exactly one digit-select line is asserted and the segment lines hold
the pattern of some digit. -/
def Obligations.OneLineLitBetweenTicks : Prop :=
  ∀ s : State, s.DisplayInv → sinceReset s.trace ≠ [] →
    exactlyOneLine s.lines ∧ ∃ d < 10, s.cfg.segEntry d = some s.segQ

/-- R57, R73, R74: a run of `n` TICK words from a live state completes and leaves the counter `(t + n) mod M`, with the writes of
those `n` TICKs appended in order (the queue of words is the model's form, log entry 3). -/
def Obligations.TicksRun : Prop :=
  ∀ (s : State) (n : Nat) (rest : List InputWord), s.Live → s.t < s.cfg.modulus →
    s.inputs = List.replicate n (.event 0b01#2) ++ rest →
    ∃ s' : State, core.run n s = .next s' ∧ s'.Live ∧ s'.cfg = s.cfg ∧ s'.inputs = rest ∧
      s'.t = (s.t + n) % s.cfg.modulus ∧
      s'.trace = s.trace ++ (List.range n).flatMap (fun k => wantedTick s.cfg ((s.t + k) % s.cfg.modulus))

/-- R75: the output requests are periodic in the number of TICKs: `M` TICKs bring the counter back, and the next `M` TICKs issue the
same writes again (the queue of words is the model's form, log entry 3). -/
def Obligations.RequestsArePeriodic : Prop :=
  ∀ (s : State) (rest : List InputWord), s.Live → s.t < s.cfg.modulus →
    s.inputs = List.replicate (s.cfg.modulus + s.cfg.modulus) (.event 0b01#2) ++ rest →
    ∃ s₁ s₂ : State, ∃ ws : List TraceItem,
      core.run s.cfg.modulus s = .next s₁ ∧ core.run s.cfg.modulus s₁ = .next s₂ ∧
      s₁.t = s.t ∧ s₂.t = s.t ∧ s₁.trace = s.trace ++ ws ∧ s₂.trace = s₁.trace ++ ws ∧
      ws.length = 3 * s.cfg.modulus

/-- R57: the program `RESET`, `STEPTO k` is allowed, has `k + 1` words, and run from any live state it leaves `t = k mod M`
(the queue of words is the model's form, log entry 3). -/
def Obligations.StepToReaches : Prop :=
  ∀ (s : State) (k : Nat), s.Live → ∃ (ws : List InputWord) (s' : State),
    assembleProgram [.reset, .stepTo k] = some ws ∧ ws.length = k + 1 ∧
    core.run (k + 1) (s.loadInputs ws) = .next s' ∧ s'.t = k % s.cfg.modulus

/-- R56, R57: the words of each line; a `STEPTO` after a TICK is refused. -/
def Obligations.EventProgramWords : Prop :=
  assembleProgram [.reset, .tick, .idle, .resetTick, .stepTo 2, .ticks 2, .idles 1] =
    some [.event 0b10#2, .event 0b01#2, .event 0b00#2, .event 0b11#2, .event 0b01#2, .event 0b01#2, .event 0b01#2,
      .event 0b01#2, .event 0b00#2] ∧
  assembleProgram [.reset, .tick, .stepTo 3] = none
end

