-- ==== Sys2Proof/Laws/State.lean ====
section
/-! SUPPORT. What each update of State does to each field: one lemma per field per update. -/

namespace Sys2Proof.Machine

@[simp] theorem State.raiseFault_cfg (s : State) (f : Fault) : (s.raiseFault f).cfg = s.cfg := rfl
@[simp] theorem State.raiseFault_t (s : State) (f : Fault) : (s.raiseFault f).t = s.t := rfl
@[simp] theorem State.raiseFault_selQ (s : State) (f : Fault) : (s.raiseFault f).selQ = s.selQ := rfl
@[simp] theorem State.raiseFault_segQ (s : State) (f : Fault) : (s.raiseFault f).segQ = s.segQ := rfl
@[simp] theorem State.raiseFault_trace (s : State) (f : Fault) : (s.raiseFault f).trace = s.trace := rfl
@[simp] theorem State.raiseFault_fault (s : State) (f : Fault) : (s.raiseFault f).fault = some f := rfl
@[simp] theorem State.raiseFault_refused (s : State) (f : Fault) : (s.raiseFault f).refused = s.refused := rfl
@[simp] theorem State.raiseFault_lookup (s : State) (f : Fault) : (s.raiseFault f).lookup = s.lookup := rfl
@[simp] theorem State.raiseFault_draws (s : State) (f : Fault) : (s.raiseFault f).draws = s.draws := rfl
@[simp] theorem State.raiseFault_inputs (s : State) (f : Fault) : (s.raiseFault f).inputs = s.inputs := rfl
@[simp] theorem State.raiseFault_envSteps (s : State) (f : Fault) : (s.raiseFault f).envSteps = s.envSteps := rfl

@[simp] theorem State.memWriteOut_cfg (s : State) (mask v : Lines) : (s.memWriteOut mask v).cfg = s.cfg := rfl
@[simp] theorem State.memWriteOut_t (s : State) (mask v : Lines) : (s.memWriteOut mask v).t = s.t := rfl
@[simp] theorem State.memWriteOut_selQ (s : State) (mask v : Lines) : (s.memWriteOut mask v).selQ = mergeBits s.selQ (mask.extractLsb' 0 8) (v.extractLsb' 0 8) := rfl
@[simp] theorem State.memWriteOut_segQ (s : State) (mask v : Lines) : (s.memWriteOut mask v).segQ = mergeBits s.segQ (mask.extractLsb' 8 7) (v.extractLsb' 8 7) := rfl
@[simp] theorem State.memWriteOut_trace (s : State) (mask v : Lines) : (s.memWriteOut mask v).trace = s.trace ++ [.write mask (v &&& mask)] := rfl
@[simp] theorem State.memWriteOut_fault (s : State) (mask v : Lines) : (s.memWriteOut mask v).fault = s.fault := rfl
@[simp] theorem State.memWriteOut_refused (s : State) (mask v : Lines) : (s.memWriteOut mask v).refused = s.refused := rfl
@[simp] theorem State.memWriteOut_lookup (s : State) (mask v : Lines) : (s.memWriteOut mask v).lookup = s.lookup := rfl
@[simp] theorem State.memWriteOut_draws (s : State) (mask v : Lines) : (s.memWriteOut mask v).draws = s.draws := rfl
@[simp] theorem State.memWriteOut_inputs (s : State) (mask v : Lines) : (s.memWriteOut mask v).inputs = s.inputs := rfl
@[simp] theorem State.memWriteOut_envSteps (s : State) (mask v : Lines) : (s.memWriteOut mask v).envSteps = s.envSteps := rfl

@[simp] theorem State.advance_cfg (s : State) : s.advance.cfg = s.cfg := rfl
@[simp] theorem State.advance_t (s : State) : s.advance.t = (s.t + 1) % s.cfg.modulus := rfl
@[simp] theorem State.advance_selQ (s : State) : s.advance.selQ = s.selQ := rfl
@[simp] theorem State.advance_segQ (s : State) : s.advance.segQ = s.segQ := rfl
@[simp] theorem State.advance_trace (s : State) : s.advance.trace = s.trace := rfl
@[simp] theorem State.advance_fault (s : State) : s.advance.fault = s.fault := rfl
@[simp] theorem State.advance_refused (s : State) : s.advance.refused = s.refused := rfl
@[simp] theorem State.advance_lookup (s : State) : s.advance.lookup = s.lookup := rfl
@[simp] theorem State.advance_draws (s : State) : s.advance.draws = s.draws := rfl
@[simp] theorem State.advance_inputs (s : State) : s.advance.inputs = s.inputs := rfl
@[simp] theorem State.advance_envSteps (s : State) : s.advance.envSteps = s.envSteps := rfl

@[simp] theorem State.restart_cfg (s : State) : s.restart.cfg = s.cfg := rfl
@[simp] theorem State.restart_t (s : State) : s.restart.t = 0 := rfl
@[simp] theorem State.restart_selQ (s : State) : s.restart.selQ = Config.selDraw s.draws := rfl
@[simp] theorem State.restart_segQ (s : State) : s.restart.segQ = Config.segDraw s.draws := rfl
@[simp] theorem State.restart_trace (s : State) : s.restart.trace = s.trace ++ [.resetMark] := rfl
@[simp] theorem State.restart_fault (s : State) : s.restart.fault = s.fault := rfl
@[simp] theorem State.restart_refused (s : State) : s.restart.refused = s.refused := rfl
@[simp] theorem State.restart_lookup (s : State) : s.restart.lookup = s.lookup := rfl
@[simp] theorem State.restart_draws (s : State) : s.restart.draws = s.draws + 1 := rfl
@[simp] theorem State.restart_inputs (s : State) : s.restart.inputs = s.inputs := rfl
@[simp] theorem State.restart_envSteps (s : State) : s.restart.envSteps = s.envSteps := rfl

@[simp] theorem State.answer_cfg (s : State) (r : LookupResult) : (s.answer r).cfg = s.cfg := rfl
@[simp] theorem State.answer_t (s : State) (r : LookupResult) : (s.answer r).t = s.t := rfl
@[simp] theorem State.answer_selQ (s : State) (r : LookupResult) : (s.answer r).selQ = s.selQ := rfl
@[simp] theorem State.answer_segQ (s : State) (r : LookupResult) : (s.answer r).segQ = s.segQ := rfl
@[simp] theorem State.answer_trace (s : State) (r : LookupResult) : (s.answer r).trace = s.trace := rfl
@[simp] theorem State.answer_fault (s : State) (r : LookupResult) : (s.answer r).fault = s.fault := rfl
@[simp] theorem State.answer_refused (s : State) (r : LookupResult) : (s.answer r).refused = s.refused := rfl
@[simp] theorem State.answer_lookup (s : State) (r : LookupResult) : (s.answer r).lookup = some r := rfl
@[simp] theorem State.answer_draws (s : State) (r : LookupResult) : (s.answer r).draws = s.draws := rfl
@[simp] theorem State.answer_inputs (s : State) (r : LookupResult) : (s.answer r).inputs = s.inputs := rfl
@[simp] theorem State.answer_envSteps (s : State) (r : LookupResult) : (s.answer r).envSteps = s.envSteps := rfl

@[simp] theorem State.loadInputs_cfg (s : State) (ws : List InputWord) : (s.loadInputs ws).cfg = s.cfg := rfl
@[simp] theorem State.loadInputs_t (s : State) (ws : List InputWord) : (s.loadInputs ws).t = s.t := rfl
@[simp] theorem State.loadInputs_selQ (s : State) (ws : List InputWord) : (s.loadInputs ws).selQ = s.selQ := rfl
@[simp] theorem State.loadInputs_segQ (s : State) (ws : List InputWord) : (s.loadInputs ws).segQ = s.segQ := rfl
@[simp] theorem State.loadInputs_trace (s : State) (ws : List InputWord) : (s.loadInputs ws).trace = s.trace := rfl
@[simp] theorem State.loadInputs_fault (s : State) (ws : List InputWord) : (s.loadInputs ws).fault = s.fault := rfl
@[simp] theorem State.loadInputs_refused (s : State) (ws : List InputWord) : (s.loadInputs ws).refused = s.refused := rfl
@[simp] theorem State.loadInputs_lookup (s : State) (ws : List InputWord) : (s.loadInputs ws).lookup = s.lookup := rfl
@[simp] theorem State.loadInputs_draws (s : State) (ws : List InputWord) : (s.loadInputs ws).draws = s.draws := rfl
@[simp] theorem State.loadInputs_inputs (s : State) (ws : List InputWord) : (s.loadInputs ws).inputs = ws := rfl
@[simp] theorem State.loadInputs_envSteps (s : State) (ws : List InputWord) : (s.loadInputs ws).envSteps = s.envSteps := rfl

@[simp] theorem State.consume_cfg (s : State) : s.consume.cfg = s.cfg := by unfold State.consume; split <;> rfl
@[simp] theorem State.consume_t (s : State) : s.consume.t = s.t := by unfold State.consume; split <;> rfl
@[simp] theorem State.consume_selQ (s : State) : s.consume.selQ = s.selQ := by unfold State.consume; split <;> rfl
@[simp] theorem State.consume_segQ (s : State) : s.consume.segQ = s.segQ := by unfold State.consume; split <;> rfl
@[simp] theorem State.consume_trace (s : State) : s.consume.trace = s.trace := by unfold State.consume; split <;> rfl
@[simp] theorem State.consume_fault (s : State) : s.consume.fault = s.fault := by unfold State.consume; split <;> rfl
@[simp] theorem State.consume_refused (s : State) : s.consume.refused = s.refused := by unfold State.consume; split <;> rfl
@[simp] theorem State.consume_lookup (s : State) : s.consume.lookup = s.lookup := by unfold State.consume; split <;> rfl
@[simp] theorem State.consume_draws (s : State) : s.consume.draws = s.draws := by unfold State.consume; split <;> rfl
@[simp] theorem State.consume_inputs (s : State) : s.consume.inputs = s.inputs.tail := by
  unfold State.consume; split <;> simp_all

end Sys2Proof.Machine
end

