-- ==== Sys2Proof/Laws/Ops.lean ====
section
/-! SUPPORT. One lemma per shared operation, saying once what it can do. -/

namespace Sys2Proof.Machine

/-- In a live state the gate is open. -/
theorem whenLive_of_live {s : State} (h : s.Live) (k : State → StepOutcome) : s.whenLive k = k s := by
  obtain ⟨hr, hc, hf⟩ := h
  simp [State.whenLive, hr, hc, hf]

/-- A next state comes only through an open gate. -/
theorem whenLive_next {s s' : State} {k : State → StepOutcome} (h : s.whenLive k = .next s') :
    s.Live ∧ k s = .next s' := by
  unfold State.whenLive at h
  split at h
  · cases h
  · split at h
    · cases h
    · split at h
      · cases h
      · exact ⟨⟨‹_›, ‹_›, ‹_›⟩, h⟩

/-- An accepted configuration has a positive `R`, a modulus that fits the counter, and an entry for every digit. -/
theorem check_eq_none {c : Config} (h : c.check = none) :
    0 < c.roundPerCount ∧ c.modulus ≤ 2 ^ c.counterWidth ∧ ∀ d < 10, ∃ pat, c.segEntry d = some pat := by
  unfold Config.check at h
  split at h
  · cases h
  · split at h
    · cases h
    · split at h
      · refine ⟨by omega, by omega, fun d hd => ?_⟩
        rename_i ht
        simp only [Config.segTableOk, List.all_eq_true, List.mem_range] at ht
        exact Option.isSome_iff_exists.mp (ht d hd)
      · cases h

theorem modulus_pos {c : Config} (h : c.check = none) : 0 < c.modulus := by
  have := (check_eq_none h).1
  simp only [Config.modulus]; omega

/-- ENCODE at a defined address goes on with its pattern. -/
theorem encodeThen_entry {s : State} {a : SegAddr} {pat : Pattern} (ha : a.toNat ≤ 9)
    (hp : s.cfg.segEntry a.toNat = some pat) (k : Pattern → StepOutcome) : s.encodeThen a k = k pat := by
  simp [State.encodeThen, memReadSegRom, ha, hp]

/-- What ENCODE can answer with a next state: it went on with a pattern, or it raised its fault at an address of 10 or more. -/
theorem encodeThen_next {s s' : State} {a : SegAddr} {k : Pattern → StepOutcome} (h : s.encodeThen a k = .next s') :
    (∃ pat, s.cfg.segEntry a.toNat = some pat ∧ k pat = .next s') ∨
    (9 < a.toNat ∧ s' = s.raiseFault (.segRomRange a)) := by
  unfold State.encodeThen memReadSegRom at h
  by_cases ha : a.toNat ≤ 9
  · rw [if_pos ha] at h
    cases hp : s.cfg.segEntry a.toNat with
    | none => rw [hp] at h; cases h
    | some pat => rw [hp] at h; exact .inl ⟨pat, rfl, h⟩
  · rw [if_neg ha] at h
    cases h
    exact .inr ⟨by omega, rfl⟩

/-- Bit `i` of the number of some bits, and its bound. -/
theorem numberOfBits_spec (f : Nat → Bool) (n : Nat) :
    numberOfBits f n < 2 ^ n ∧ ∀ i, (numberOfBits f n).testBit i = (decide (i < n) && f i) := by
  induction n with
  | zero => simp [numberOfBits]
  | succ n ih =>
    obtain ⟨hlt, hbit⟩ := ih
    have key : numberOfBits f (n + 1) = 2 ^ n * (f n).toNat + numberOfBits f n := by
      cases h : f n <;> simp [numberOfBits, h, Nat.add_comm]
    refine ⟨?_, fun i => ?_⟩
    · rw [key, Nat.pow_succ]
      cases f n <;> simp <;> omega
    · rw [key, Nat.testBit_two_pow_mul_add _ hlt]
      split
      · rename_i h
        simp [hbit, h, Nat.lt_succ_of_lt h]
      · by_cases hi : i = n
        · subst hi; cases f i <;> simp
        · have h1 : ¬ i < n + 1 := by omega
          have h2 : i - n ≠ 0 := by omega
          have h3 : (f n).toNat < 2 ^ (i - n) := (Bool.toNat_lt _).trans_le (Nat.le_self_pow h2 2)
          simp [h1, Nat.testBit_lt_two_pow h3]

/-- Bit `i` of a masked merge. -/
theorem mergeBits_bit {w : Nat} (old mask v : BitVec w) {i : Nat} (hi : i < w) :
    (mergeBits old mask v).getLsbD i = if mask.getLsbD i then v.getLsbD i else old.getLsbD i := by
  rw [mergeBits, BitVec.getLsbD_ofNat, (numberOfBits_spec _ w).2]
  simp [hi]

/-- Bit `i` of the select lines after a masked write. -/
theorem memWriteOut_selQ_bit (s : State) (mask v : Lines) {i : Nat} (hi : i < 8) :
    (s.memWriteOut mask v).selQ.getLsbD i = if mask.getLsbD i then v.getLsbD i else s.selQ.getLsbD i := by
  rw [State.memWriteOut_selQ, mergeBits_bit _ _ _ hi]
  simp [hi]

/-- Bit `i` of the segment lines after a masked write. -/
theorem memWriteOut_segQ_bit (s : State) (mask v : Lines) {i : Nat} (hi : i < 7) :
    (s.memWriteOut mask v).segQ.getLsbD i = if mask.getLsbD (8 + i) then v.getLsbD (8 + i) else s.segQ.getLsbD i := by
  rw [State.memWriteOut_segQ, mergeBits_bit _ _ _ hi]
  simp [hi]

/-- A line's bit: the select lines below 8, the segment lines from 8 on. -/
theorem lines_bit (s : State) (i : Nat) :
    s.lines.getLsbD i = if i < 8 then s.selQ.getLsbD i else s.segQ.getLsbD (i - 8) := by
  refine (BitVec.getLsbD_append (x := s.segQ) (y := s.selQ) (i := i)).trans ?_
  by_cases h : i < 8 <;> simp [h]

/-- The lines after a masked write, in the words of R34's pseudocode. -/
theorem memWriteOut_lines (s : State) (mask v : Lines) :
    (s.memWriteOut mask v).lines = (s.lines &&& ~~~mask) ||| (v &&& mask) := by
  apply BitVec.eq_of_getLsbD_eq
  intro i hi
  have hm : ((s.lines &&& ~~~mask) ||| (v &&& mask)).getLsbD i =
      if mask.getLsbD i then v.getLsbD i else s.lines.getLsbD i := by
    simp only [BitVec.getLsbD_or, BitVec.getLsbD_and, BitVec.getLsbD_not]
    cases mask.getLsbD i <;> simp [hi]
  rw [hm, lines_bit, lines_bit]
  by_cases h : i < 8
  · simp only [h, if_true, memWriteOut_selQ_bit s mask v h]
  · have h8 : 8 + (i - 8) = i := by omega
    simp only [h, if_false, memWriteOut_segQ_bit s mask v (show i - 8 < 7 by omega), h8]

/-- W1's mask covers the select lines and no segment line; W2's the segment lines and no select line. -/
theorem outMasks_bits :
    (∀ i < 8, (0x00FF#15).getLsbD i = true ∧ (0x7F00#15).getLsbD i = false) ∧
    (∀ i < 7, (0x00FF#15).getLsbD (8 + i) = false ∧ (0x7F00#15).getLsbD (8 + i) = true) := by decide

/-- W1 clears the select lines and leaves the segment lines. -/
theorem deassertAll_latches (s : State) : s.deassertAll.selQ = 0#8 ∧ s.deassertAll.segQ = s.segQ := by
  refine ⟨BitVec.eq_of_getLsbD_eq fun i hi => ?_, BitVec.eq_of_getLsbD_eq fun i hi => ?_⟩
  · rw [State.deassertAll, memWriteOut_selQ_bit _ _ _ hi, (outMasks_bits.1 i hi).1]; simp
  · rw [State.deassertAll, memWriteOut_segQ_bit _ _ _ hi, (outMasks_bits.2 i hi).1]; simp

/-- W2 drives the segment lines and leaves the select lines. -/
theorem driveSegments_latches (s : State) (pat : Pattern) :
    (s.driveSegments pat).selQ = s.selQ ∧ (s.driveSegments pat).segQ = pat := by
  refine ⟨BitVec.eq_of_getLsbD_eq fun i hi => ?_, BitVec.eq_of_getLsbD_eq fun i hi => ?_⟩
  · rw [State.driveSegments, memWriteOut_selQ_bit _ _ _ hi, (outMasks_bits.1 i hi).2]; simp
  · rw [State.driveSegments, memWriteOut_segQ_bit _ _ _ hi, (outMasks_bits.2 i hi).2, if_pos rfl]
    exact (BitVec.getLsbD_append (x := pat) (y := 0x00#8) (i := 8 + i)).trans (by simp)

/-- W3 asserts the lines of its word and leaves every other line. -/
theorem assertLine_latches (s : State) (selw : SelectWord) :
    (s.assertLine selw).selQ = s.selQ ||| selw ∧ (s.assertLine selw).segQ = s.segQ := by
  refine ⟨BitVec.eq_of_getLsbD_eq fun i hi => ?_, BitVec.eq_of_getLsbD_eq fun i hi => ?_⟩
  · have h15 : i < 15 := by omega
    rw [State.assertLine, memWriteOut_selQ_bit _ _ _ hi, BitVec.getLsbD_or, BitVec.getLsbD_setWidth]
    cases h : selw.getLsbD i <;> simp [h15]
  · rw [State.assertLine, memWriteOut_segQ_bit _ _ _ hi, BitVec.getLsbD_setWidth, BitVec.getLsbD_of_ge _ _ (by omega)]
    simp

/-- The output request leaves the pattern on the segment lines and the select word on the select lines. -/
theorem outReq_latches (s : State) (pat : Pattern) (selw : SelectWord) :
    (s.outReq pat selw).segQ = pat ∧ (s.outReq pat selw).selQ = selw := by
  obtain ⟨h1, -⟩ := deassertAll_latches s
  obtain ⟨h2, h3⟩ := driveSegments_latches s.deassertAll pat
  obtain ⟨h4, h5⟩ := assertLine_latches (s.deassertAll.driveSegments pat) selw
  exact ⟨h5.trans h3, h4.trans (by rw [h2, h1, BitVec.zero_or])⟩

/-- The three writes an output request appends. -/
theorem outReq_trace (s : State) (pat : Pattern) (selw : SelectWord) :
    (s.outReq pat selw).trace = s.trace ++ [.write 0x00FF#15 (0x0000#15 &&& 0x00FF#15),
      .write 0x7F00#15 ((pat ++ 0x00#8) &&& 0x7F00#15),
      .write (selw.setWidth 15) (selw.setWidth 15 &&& selw.setWidth 15)] := by
  simp [State.outReq, State.assertLine, State.driveSegments, State.deassertAll]

/-- An output request changes the latches and the trace, and nothing else. -/
theorem outReq_frame (s : State) (pat : Pattern) (selw : SelectWord) :
    s.outReq pat selw = { s with
      segQ := (s.outReq pat selw).segQ, selQ := (s.outReq pat selw).selQ, trace := (s.outReq pat selw).trace } := rfl

/-- The digit of a divisor ROM entry is below 10 and is its own ENCODE address. -/
theorem segAddrOf_digit (v : Nat) (div : Divisor) :
    (segAddrOf (digitOf v div)).toNat = digitOf v div ∧ digitOf v div < 10 := by
  have h : digitOf v div < 10 := Nat.mod_lt _ (by decide)
  refine ⟨?_, h⟩
  simp only [segAddrOf, BitVec.toNat_ofNat]
  exact Nat.mod_eq_of_lt (by omega)

end Sys2Proof.Machine
end

