-- ==== Sys2Proof/Laws/Exec.lean ====
section
/-! SUPPORT. What `exec` and `step` can do, once: the inversion lemma every frame and every invariant follows from. -/

namespace Sys2Proof.Machine

/-- The TICK of a live state, in the model's own operations: the ROM entry of the digit exists, and the step is the output request
followed by the advance. -/
theorem execTick_live {s : State} (h : s.Live) :
    ∃ pat, s.cfg.segEntry (digitOf (dispVal s.cfg.roundPerCount s.t) (memReadDivRom (slotOf s.t))) = some pat ∧
      execTick s = .next (s.outReq pat
        (selDecode (pinIndexOf (slotOf s.t) (dispVal s.cfg.roundPerCount s.t)))).advance := by
  obtain ⟨ha, hd⟩ := segAddrOf_digit (dispVal s.cfg.roundPerCount s.t) (memReadDivRom (slotOf s.t))
  obtain ⟨pat, hp⟩ := (check_eq_none h.2.1).2.2 _ hd
  refine ⟨pat, hp, ?_⟩
  unfold execTick
  rw [whenLive_of_live h]
  exact encodeThen_entry (by omega) (by rw [ha]; exact hp) _

/-- Every operation is behind the gate: it asks first whether the machine takes steps. -/
theorem exec_gated (i : Instr) (s : State) : ∃ k, exec i s = s.whenLive k := by
  cases i <;>
    simp only [exec, execIdle, execTick, execReset, execEnc0, execEnc1, execEnc2, execEnc3, execEnc4, execEnc5, execEnc6,
      execEnc7, execEnc8, execEnc9, execEncIllA, execEncIllC, encodeAlone, execDiv0, execDiv1, execDiv2, execDiv3,
      divSelAlone, execSel0, execSel1, execSel2, execSel3, execSel4, execSel5, execSel6, execSel7, selDecAlone] <;>
    exact ⟨_, rfl⟩

/-- RESET of a live state is `restart`, whatever its operand. -/
theorem execReset_live {s : State} (h : s.Live) (b : BitVec 1) : execReset b s = .next s.restart := by
  rw [execReset, whenLive_of_live h]

/-- A divisor lookup of a live state answers. -/
theorem divSelAlone_live {s : State} (h : s.Live) (a : Slot) :
    divSelAlone a s = .next (s.answer (.divisor (memReadDivRom a))) := by
  rw [divSelAlone, whenLive_of_live h]

/-- A select-decoder lookup of a live state answers. -/
theorem selDecAlone_live {s : State} (h : s.Live) (p : PinIndex) :
    selDecAlone p s = .next (s.answer (.selectWord (selDecode p))) := by
  rw [selDecAlone, whenLive_of_live h]

/-- A segment ROM lookup of a live state is ENCODE at that address, then the answer. -/
theorem encodeAlone_live {s : State} (h : s.Live) (a : SegAddr) :
    encodeAlone a s = s.encodeThen a fun pat => .next (s.answer (.pattern pat)) := by
  rw [encodeAlone, whenLive_of_live h]

/-- What one operation can do, if it answers a next state: it is IDLE and changes nothing, TICK with the request and the advance of
`execTick_live`, RESET with `restart`, a lookup that answers, or an out-of-range lookup that raises the fault. -/
theorem exec_cases {i : Instr} {s s' : State} (h : exec i s = .next s') :
    s.Live ∧
    ((i = .idle ∧ s' = s) ∨
     (i = .tick ∧ ∃ pat, s.cfg.segEntry (digitOf (dispVal s.cfg.roundPerCount s.t) (memReadDivRom (slotOf s.t))) = some pat ∧
        s' = (s.outReq pat (selDecode (pinIndexOf (slotOf s.t) (dispVal s.cfg.roundPerCount s.t)))).advance) ∨
     ((∃ b, i = .reset b) ∧ s' = s.restart) ∨
     ((∀ b, i ≠ .reset b) ∧ i ≠ .tick ∧ i ≠ .idle ∧ ((∃ r, s' = s.answer r) ∨ ∃ a, 9 < a.toNat ∧ s' = s.raiseFault (.segRomRange a)))) := by
  have rom : ∀ a, encodeAlone a s = .next s' →
      s.Live ∧ ((∃ r, s' = s.answer r) ∨ ∃ a, 9 < a.toNat ∧ s' = s.raiseFault (.segRomRange a)) := by
    intro a ha
    obtain ⟨hl, hk⟩ := whenLive_next ha
    rcases encodeThen_next hk with ⟨pat, -, hn⟩ | ⟨h9, rfl⟩
    · cases hn; exact ⟨hl, .inl ⟨_, rfl⟩⟩
    · exact ⟨hl, .inr ⟨a, h9, rfl⟩⟩
  have div : ∀ a, divSelAlone a s = .next s' → s.Live ∧ ∃ r, s' = s.answer r := by
    intro a ha
    obtain ⟨hl, hk⟩ := whenLive_next ha
    cases hk; exact ⟨hl, _, rfl⟩
  have sel : ∀ p, selDecAlone p s = .next s' → s.Live ∧ ∃ r, s' = s.answer r := by
    intro p hp
    obtain ⟨hl, hk⟩ := whenLive_next hp
    cases hk; exact ⟨hl, _, rfl⟩
  cases i with
  | idle =>
    obtain ⟨hl, hk⟩ := whenLive_next h
    cases hk; exact ⟨hl, .inl ⟨rfl, rfl⟩⟩
  | tick =>
    replace h : execTick s = .next s' := h
    obtain ⟨hl, -⟩ := whenLive_next (k := _) (by rw [execTick] at h; exact h)
    obtain ⟨pat, hp, ht⟩ := execTick_live hl
    rw [ht] at h
    cases h
    exact ⟨hl, .inr (.inl ⟨rfl, pat, hp, rfl⟩)⟩
  | reset b =>
    replace h : s.whenLive (fun s => .next s.restart) = .next s' := h
    obtain ⟨hl, hk⟩ := whenLive_next h
    cases hk; exact ⟨hl, .inr (.inr (.inl ⟨⟨b, rfl⟩, rfl⟩))⟩
  | enc0 | enc1 | enc2 | enc3 | enc4 | enc5 | enc6 | enc7 | enc8 | enc9 | encIllA | encIllC =>
    obtain ⟨hl, hr⟩ := rom _ h
    exact ⟨hl, .inr (.inr (.inr ⟨nofun, nofun, nofun, hr⟩))⟩
  | div0 | div1 | div2 | div3 =>
    obtain ⟨hl, hr⟩ := div _ h
    exact ⟨hl, .inr (.inr (.inr ⟨nofun, nofun, nofun, .inl hr⟩))⟩
  | sel0 | sel1 | sel2 | sel3 | sel4 | sel5 | sel6 | sel7 =>
    obtain ⟨hl, hr⟩ := sel _ h
    exact ⟨hl, .inr (.inr (.inr ⟨nofun, nofun, nofun, .inl hr⟩))⟩

/-- A state with a waiting word: the word goes and its operation runs. -/
theorem step_of_inputs {s : State} {x : InputWord} {rest : List InputWord} (h : s.inputs = x :: rest) :
    s.nextWord = x ∧ s.consume = { s with inputs := rest } := by
  simp [State.nextWord, State.consume, h]

/-- A run whose first step answers a next state goes on from there. -/
theorem run_of_step {s s' : State} (n : Nat) (h : step s = .next s') : core.run (n + 1) s = core.run n s' := by
  have hs : core.step s = .next s' := h
  have e := Host.Core.run.eq_2 core s n
  rw [hs] at e
  exact e

end Sys2Proof.Machine
end

