-- ==== Sys2Proof/Laws/PerInstr.lean ====
section
/-! SUPPORT. Per-instruction statements, one lemma per constructor. -/

namespace Sys2Proof.Laws.RowOfWord

/-- The word of a well-formed operation matches the opcode-table row that bears the operation's name (spec/30_encoding.md R54). -/
def Statement (i : Instr) : Prop :=
  i.wf = true → ∃ r ∈ opcodeTable, r.name = mnemonicOf i ∧ rowMatches (encode i) r = true

theorem idle : Statement .idle := by unfold Statement; decide
theorem tick : Statement .tick := by unfold Statement; decide
theorem reset (b : BitVec 1) : Statement (.reset b) := by
  unfold Statement; revert b; decide
theorem enc0 : Statement .enc0 := by unfold Statement; decide
theorem enc1 : Statement .enc1 := by unfold Statement; decide
theorem enc2 : Statement .enc2 := by unfold Statement; decide
theorem enc3 : Statement .enc3 := by unfold Statement; decide
theorem enc4 : Statement .enc4 := by unfold Statement; decide
theorem enc5 : Statement .enc5 := by unfold Statement; decide
theorem enc6 : Statement .enc6 := by unfold Statement; decide
theorem enc7 : Statement .enc7 := by unfold Statement; decide
theorem enc8 : Statement .enc8 := by unfold Statement; decide
theorem enc9 : Statement .enc9 := by unfold Statement; decide
theorem encIllA (a : SegAddr) : Statement (.encIllA a) := by
  unfold Statement; revert a; decide
theorem encIllC (a : SegAddr) : Statement (.encIllC a) := by
  unfold Statement; revert a; decide
theorem div0 : Statement .div0 := by unfold Statement; decide
theorem div1 : Statement .div1 := by unfold Statement; decide
theorem div2 : Statement .div2 := by unfold Statement; decide
theorem div3 : Statement .div3 := by unfold Statement; decide
theorem sel0 : Statement .sel0 := by unfold Statement; decide
theorem sel1 : Statement .sel1 := by unfold Statement; decide
theorem sel2 : Statement .sel2 := by unfold Statement; decide
theorem sel3 : Statement .sel3 := by unfold Statement; decide
theorem sel4 : Statement .sel4 := by unfold Statement; decide
theorem sel5 : Statement .sel5 := by unfold Statement; decide
theorem sel6 : Statement .sel6 := by unfold Statement; decide
theorem sel7 : Statement .sel7 := by unfold Statement; decide

end Sys2Proof.Laws.RowOfWord
end

