-- ==== Sys2Proof/Tests/Slice0.lean ====
section
/-! SUPPORT. Our own tests: the WellFormed smoke, words written out from the spec's encodings, vectors of spec/95_test_vectors.md, and, for
every statement with hypotheses, a state and operands that meet them. -/

namespace Sys2Proof.Tests

open Sys2Proof.Machine

/-- A pin map: select lines on 10 to 17 (line 7 active-low), segment lines on 20 to 26. -/
def pins : PinMap where
  selPin := Vector.ofFn fun p => 10 + p.val
  segPin := Vector.ofFn fun i => 20 + i.val
  selActiveLow := Vector.ofFn fun p => p.val == 7

/-- A configuration with a given `R` and `W` and the default table. -/
def cfgOf (r w : Nat) : Config := ⟨r, w, Config.defaultSegTable, 1000, pins⟩

/-- A state at counter `t`, with latches as the vector 2.7 of spec/95_test_vectors.md has them before its TICK. -/
def stateAt (r t : Nat) : State := { State.resetWith (cfgOf r 32) with t := t, selQ := 0x08#8, segQ := 0x3F#7, inputs := [] }

/-- The outcome is a next state with a property. -/
def nextAnd (o : StepOutcome) (p : State → Bool) : Bool :=
  match o with
  | .next s => p s
  | .fault _ => false
  | .refused _ => false

/-- The outcome is this fault. -/
def faultIs (o : StepOutcome) (f : Fault) : Bool :=
  match o with
  | .next _ => false
  | .fault g => f == g
  | .refused _ => false

/-- The outcome is this refusal. -/
def refusalIs (o : StepOutcome) (r : Refusal) : Bool :=
  match o with
  | .next _ => false
  | .fault _ => false
  | .refused q => r == q

/-- After a step at this `R` and `t`, the segment and select latches and the counter are these. -/
def tickShows (r t : Nat) (seg : Pattern) (sel : SelectWord) (t' : Nat) : Bool :=
  nextAnd (exec .tick (stateAt r t)) fun s => s.segQ == seg && s.selQ == sel && s.t == t'

-- WellFormed: an ill-formed term for each check (R52)
theorem test_wf_refuses_encIllA : (Instr.encIllA 9#4).wf = false ∧ (Instr.encIllA 12#4).wf = false := by decide
theorem test_wf_refuses_encIllC : (Instr.encIllC 11#4).wf = false := by decide
theorem test_wf_accepts : (Instr.encIllA 11#4).wf = true ∧ (Instr.encIllC 12#4).wf = true ∧ Instr.tick.wf = true := by decide

-- Words written out from the spec's encodings (30_encoding.md R48 to R52, opcode_table.json)
theorem test_decode_events :
    decode (.event 0b00#2) = .idle ∧ decode (.event 0b01#2) = .tick ∧
    decode (.event 0b10#2) = .reset 0#1 ∧ decode (.event 0b11#2) = .reset 1#1 := by decide
theorem test_decode_enc_low :
    decode (.segRom 0b0000#4) = .enc0 ∧ decode (.segRom 0b0001#4) = .enc1 ∧ decode (.segRom 0b0010#4) = .enc2 ∧
    decode (.segRom 0b0011#4) = .enc3 ∧ decode (.segRom 0b0100#4) = .enc4 ∧ decode (.segRom 0b0101#4) = .enc5 := by decide
theorem test_decode_enc_high :
    decode (.segRom 0b0110#4) = .enc6 ∧ decode (.segRom 0b0111#4) = .enc7 ∧ decode (.segRom 0b1000#4) = .enc8 ∧
    decode (.segRom 0b1001#4) = .enc9 := by decide
theorem test_decode_enc_illegal :
    decode (.segRom 0b1010#4) = .encIllA 10#4 ∧ decode (.segRom 0b1011#4) = .encIllA 11#4 ∧
    decode (.segRom 0b1100#4) = .encIllC 12#4 ∧ decode (.segRom 0b1111#4) = .encIllC 15#4 := by decide
theorem test_decode_div :
    decode (.divRom 0b00#2) = .div0 ∧ decode (.divRom 0b01#2) = .div1 ∧ decode (.divRom 0b10#2) = .div2 ∧
    decode (.divRom 0b11#2) = .div3 := by decide
theorem test_decode_sel :
    decode (.selDec 0b000#3) = .sel0 ∧ decode (.selDec 0b001#3) = .sel1 ∧ decode (.selDec 0b010#3) = .sel2 ∧
    decode (.selDec 0b011#3) = .sel3 ∧ decode (.selDec 0b100#3) = .sel4 ∧ decode (.selDec 0b101#3) = .sel5 ∧
    decode (.selDec 0b110#3) = .sel6 ∧ decode (.selDec 0b111#3) = .sel7 := by decide
theorem test_encode_reset : encode (.reset 0#1) = .event 0b10#2 ∧ encode (.reset 1#1) = .event 0b11#2 := by decide
-- bare table words (log entry 10)
theorem test_table_words :
    decodeTableWord 8 0 = some .idle ∧ decodeTableWord 8 1 = some .tick ∧ decodeTableWord 8 2 = some (.reset 0#1) ∧
    decodeTableWord 8 9 = some .enc9 ∧ decodeTableWord 8 12 = some (.encIllC 12#4) ∧ decodeTableWord 8 16 = none ∧
    decodeTableWord 3 5 = some .sel5 ∧ decodeTableWord 4 2 = some .enc2 ∧ decodeTableWord 2 4 = none := by decide
theorem test_placed_words_run_from_reset :
    nextAnd (step (State.reset.withFetchWord 8 1)) (fun s => s.t == 1 && s.selQ == 0x01#8 && s.segQ == 0x3F#7) = true ∧
    nextAnd (step (State.reset.withFetchWord 8 0)) (fun s => s.t == 0) = true ∧
    nextAnd (step (State.reset.withFetchWord 8 10)) (fun s => s.fault == some (.segRomRange 10#4)) = true := by decide

-- 95_test_vectors.md 2.5 and 2.6, the source's S1 to S3 among them
theorem test_tick_first : tickShows 25 0 0x3F#7 0x01#8 1 = true := by decide
theorem test_tick_scenario : tickShows 25 100 0x06#7 0x10#8 101 = true ∧ tickShows 25 101 0x3F#7 0x20#8 102 = true := by decide
theorem test_tick_digits :
    tickShows 25 123456 0x66#7 0x01#8 123457 = true ∧ tickShows 25 123457 0x4F#7 0x02#8 123458 = true ∧
    tickShows 25 123458 0x5B#7 0x04#8 123459 = true ∧ tickShows 25 123459 0x06#7 0x08#8 123460 = true := by decide
theorem test_tick_wraps : tickShows 25 999999 0x6F#7 0x80#8 0 = true ∧ tickShows 1 39999 0x6F#7 0x80#8 0 = true := by decide
theorem test_tick_smallest_r : tickShows 1 4 0x06#7 0x10#8 5 = true ∧ tickShows 1 4939 0x06#7 0x08#8 4940 = true := by decide
-- 2.8: the largest R for W = 32
theorem test_tick_largest_r : nextAnd (exec .tick (stateAt 107374 4294959999)) (fun s => s.t == 0) = true := by decide
-- 42_digit_selector.md R70's worked example
theorem test_tick_trace :
    nextAnd (exec .tick (stateAt 25 100)) (fun s => s.trace ==
      [.resetMark, .write 0x00FF#15 0x0000#15, .write 0x7F00#15 0x0600#15, .write 0x0010#15 0x0010#15]) = true := by decide
-- 2.7: the transients
theorem test_transients :
    (stateAt 25 100).deassertAll.selQ = 0x00#8 ∧ (stateAt 25 100).deassertAll.segQ = 0x3F#7 ∧
    ((stateAt 25 100).deassertAll.driveSegments 0x06#7).selQ = 0x00#8 ∧
    ((stateAt 25 100).deassertAll.driveSegments 0x06#7).segQ = 0x06#7 := by decide
-- 2.3: digits of fixed values
theorem test_digits :
    digitOf 1234 (memReadDivRom 0#2) = 4 ∧ digitOf 1234 (memReadDivRom 3#2) = 1 ∧ digitOf 40 (memReadDivRom 1#2) = 4 ∧
    digitOf 12345 (memReadDivRom 3#2) = 2 := by decide
-- 2.9
theorem test_idle : nextAnd (exec .idle (stateAt 25 5)) (fun s => s == stateAt 25 5) = true := by decide
theorem test_reset :
    nextAnd (exec (.reset 0#1) (stateAt 25 4711)) (fun s => s.t == 0 && s.trace == [.resetMark, .resetMark]) = true ∧
    nextAnd (exec (.reset 1#1) (stateAt 25 4711)) (fun s => s.t == 0 && s.trace == [.resetMark, .resetMark]) = true := by decide
-- 2.1: ENCODE on its own
theorem test_encode_alone :
    nextAnd (exec .enc4 (stateAt 25 7)) (fun s => s.lookup == some (.pattern 0b1100110#7) && s.t == 7) = true ∧
    nextAnd (exec .enc9 (stateAt 25 7)) (fun s => s.lookup == some (.pattern 0b1101111#7)) = true := by decide
theorem test_encode_illegal :
    nextAnd (exec (.encIllA 10#4) (stateAt 25 7)) (fun s => s == { stateAt 25 7 with fault := some (.segRomRange 10#4) }) = true ∧
    nextAnd (exec (.encIllC 15#4) (stateAt 25 7)) (fun s => s.fault == some (.segRomRange 15#4)) = true := by decide
-- 2.2 and 2.4
theorem test_div_alone :
    nextAnd (exec .div2 (stateAt 25 7)) (fun s => s.lookup == some (.divisor 100#10)) = true ∧
    nextAnd (exec .div3 (stateAt 25 7)) (fun s => s.lookup == some (.divisor 1000#10)) = true := by decide
theorem test_sel_alone :
    nextAnd (exec .sel0 (stateAt 25 7)) (fun s => s.lookup == some (.selectWord 0x01#8)) = true ∧
    nextAnd (exec .sel4 (stateAt 25 7)) (fun s => s.lookup == some (.selectWord 0x10#8)) = true := by decide
-- a faulted state and a refused configuration (R88, R83)
theorem test_faulted_reset :
    faultIs (exec (.reset 0#1) { stateAt 25 7 with fault := some (.segRomRange 10#4) }) (.segRomRange 10#4) = true := by decide
theorem test_refused_tick : refusalIs (exec .tick (stateAt 0 0)) (.config .rZero) = true := by decide
-- 2.10
theorem test_config_checks :
    (cfgOf 0 32).check = some .rZero ∧ (cfgOf 1 32).check = none ∧ (cfgOf 25 32).check = none ∧
    (cfgOf 107374 32).check = none ∧ (cfgOf 107375 32).check = some .counterWidth ∧
    (cfgOf 25 16).check = some .counterWidth ∧ (cfgOf 1 16).check = none := by decide
theorem test_config_table :
    ({ cfgOf 25 32 with segTable := [some 1, none] } : Config).check = some .segTable ∧
    ({ cfgOf 25 32 with segTable := List.replicate 10 (some 128) } : Config).check = some .segTable := by decide
-- the text of P5 (95_test_vectors.md section 3), its encoding 10 01 01 11 01
theorem test_program_text :
    parseProgram [['R','E','S','E','T'], ['T','I','C','K',' ',';',' ','a'], ['T','I','C','K','*','1'],
      [';',' ','x'], ['R','E','S','E','T','+','T','I','C','K'], ['S','T','E','P','T','O',' ','1']] =
      some [.reset, .tick, .ticks 1, .resetTick, .stepTo 1] ∧
    assembleProgram [.reset, .tick, .ticks 1, .resetTick, .stepTo 1] =
      some [.event 0b10#2, .event 0b01#2, .event 0b01#2, .event 0b11#2, .event 0b01#2] := by decide
theorem test_program_refused : parseLine ['T','I','C','K','*'] = none ∧ assembleProgram [.tick, .stepTo 1] = none := by decide
-- 20_memory.md R33's layout behind PIN_MAP, and a line's polarity (92_eei_decisions.md D7)
theorem test_pin_map :
    (cfgOf 25 32).physicalLine 7 = 17 ∧ (cfgOf 25 32).physicalLine 8 = 20 ∧ (cfgOf 25 32).physicalLine 14 = 26 ∧
    (cfgOf 25 32).selectLevel 7 true = false ∧ (cfgOf 25 32).selectLevel 0 true = true := by decide
-- 70_reset_and_hazards.md R102 with R = 25 and T = 1000
theorem test_rates :
    (cfgOf 25 32).slotPeriodUs = 1000 ∧ (cfgOf 25 32).refreshPeriodUs = 4000 ∧
    (cfgOf 25 32).valuePeriodUs = 100 * 1000 ∧ (cfgOf 25 32).wrapPeriodUs = 1000000 * 1000 := by decide

-- Witnesses: a state and operands for the hypotheses of each statement

/-- The state after one TICK of `stateAt 25 0`, with a TICK waiting. -/
def afterFirstTick : State :=
  { stateAt 25 1 with selQ := 0x01#8, segQ := 0x3F#7, trace := .resetMark :: wantedWrites 0x3F#7 0, inputs := [.event 0b01#2] }

theorem witness_DecodeOfEncode : (Instr.encIllC 12#4).wf = true ∧ (Instr.encIllA 10#4).wf = true := by decide
theorem witness_StepRunsDecodedWord : afterFirstTick.inputs = .event 0b01#2 :: [] ∧ (stateAt 25 0).inputs = [] := by decide
theorem witness_PlacedWordRuns : decodeTableWord 8 1 = some .tick := by decide
theorem witness_ConfigurationVerdict :
    (cfgOf 0 32).check = some .rZero ∧ (cfgOf 107375 32).check = some .counterWidth ∧
    ({ cfgOf 25 32 with segTable := [] } : Config).check = some .segTable := by decide
theorem witness_ThirtyTwoBitCounterAllows : (cfgOf 107374 32).counterWidth = 32 ∧ (cfgOf 107374 32).segTableOk = true := by decide
theorem witness_RefusedConfigurationTakesNoStep :
    (stateAt 0 0).refused = some .rZero ∧
    ({ stateAt 0 0 with refused := none } : State).refused = none ∧ (stateAt 0 0).cfg.check = some .rZero := by decide
theorem witness_FaultedStateTakesNoStep :
    ({ stateAt 25 0 with fault := some (.segRomRange 15#4) } : State).refused = none ∧ (stateAt 25 0).cfg.check = none ∧
    ({ stateAt 25 0 with fault := some (.segRomRange 15#4) } : State).fault = some (.segRomRange 15#4) := by decide
/-- For every statement whose hypothesis is a live state. -/
theorem witness_live : (stateAt 25 100).Live ∧ (stateAt 1 0).Live := by decide
theorem witness_TickResult : (stateAt 25 0).Live ∧ 10 ≤ (10#4 : SegAddr).toNat := by decide
theorem witness_AdvanceWraps :
    (stateAt 25 999999).Live ∧ (stateAt 25 999999).t < (stateAt 25 999999).cfg.modulus ∧
    (stateAt 25 999999).t = (stateAt 25 999999).cfg.modulus - 1 ∧
    (stateAt 25 999998).Live ∧ (stateAt 25 999998).t + 2 = (stateAt 25 999998).cfg.modulus := by decide
theorem witness_TickAtTheEnds :
    (stateAt 25 0).Live ∧ (stateAt 25 0).t = 0 ∧
    (stateAt 25 999999).Live ∧ (stateAt 25 999999).t + 1 = (stateAt 25 999999).cfg.modulus := by decide
theorem witness_TickDependsOnCounterOnly :
    (stateAt 25 1).Live ∧ afterFirstTick.Live ∧ (stateAt 25 1).cfg = afterFirstTick.cfg ∧ (stateAt 25 1).t = afterFirstTick.t ∧
    (stateAt 25 1).selQ ≠ afterFirstTick.selQ := by decide
theorem witness_LineStatesInsideATick : ∃ s', exec .enc4 (stateAt 25 7) = .next s' ∧ Instr.enc4 ≠ .tick ∧ ∀ b, Instr.enc4 ≠ .reset b :=
  ⟨_, rfl, nofun, nofun⟩
theorem witness_EncodeOutOfRangeFaults :
    (stateAt 25 0).Live ∧ (10#4 : SegAddr).toNat = 10 ∧ 12 ≤ (12#4 : SegAddr).toNat ∧ 12 ≤ (15#4 : SegAddr).toNat := by decide
theorem witness_EventFrames :
    (∃ s', exec .tick (stateAt 25 0) = .next s') ∧ (∃ s', exec .idle (stateAt 25 0) = .next s') ∧
    ∃ s', exec (.reset 1#1) (stateAt 25 0) = .next s' := ⟨⟨_, rfl⟩, ⟨_, rfl⟩, ⟨_, rfl⟩⟩
theorem witness_LookupFrames :
    (∃ s', exec .div0 (stateAt 25 0) = .next s') ∧ ∃ s', exec (.encIllA 10#4) (stateAt 25 0) = .next s' := ⟨⟨_, rfl⟩, ⟨_, rfl⟩⟩
theorem witness_OnlyTickAndResetWriteCounter : ∃ s', exec .tick (stateAt 25 0) = .next s' ∧ s'.t ≠ (stateAt 25 0).t :=
  ⟨_, rfl, by decide⟩
/-- For every statement whose hypothesis is a step that answers a next state. -/
theorem witness_step_next :
    ∃ s', step afterFirstTick = .next s' ∧ ∀ b, decode afterFirstTick.nextWord ≠ .reset b := ⟨_, rfl, nofun⟩
theorem witness_DisplayedValueRange :
    1 ≤ (cfgOf 25 32).roundPerCount ∧ 999999 < (cfgOf 25 32).modulus ∧ 39996 * (cfgOf 25 32).roundPerCount ≤ 999999 ∧
    99 < 4 * (cfgOf 25 32).roundPerCount := by decide
/-- For NestedDivision, DisplayedValueRises and EachSlotRTimesPerValue, at the smallest `R`, and DigitsRecomposeValue, at the largest value:
the hypotheses hold there, and the derived values are those of 95_test_vectors.md 2.3 and 2.6. -/
theorem witness_derived_values :
    1 ≤ (cfgOf 1 32).roundPerCount ∧ dispVal 1 4 = 1 ∧ dispVal 1 39999 = 9999 ∧
    9999 ≤ 9999 ∧ digitOf 9999 (memReadDivRom 3#2) = 9 := by decide
theorem witness_ResetMeetsTheInvariants : (cfgOf 107374 32).check = none ∧ Config.standard.check = none := by decide
theorem witness_CounterInv : (stateAt 25 999999).CounterInv := ⟨by decide, by decide⟩
theorem witness_SafeInv : afterFirstTick.SafeInv := ⟨by decide, by decide, by decide⟩
theorem witness_DisplayInv :
    afterFirstTick.DisplayInv ∧ sinceReset afterFirstTick.trace ≠ [] ∧ 3 ≤ (sinceReset afterFirstTick.trace).length :=
  ⟨⟨by decide, 1, by decide, by decide, fun _ => by decide⟩, by decide, by decide⟩
theorem witness_TicksRun :
    afterFirstTick.Live ∧ afterFirstTick.t < afterFirstTick.cfg.modulus ∧
    afterFirstTick.inputs = List.replicate 1 (.event 0b01#2) ++ [] := by decide
theorem witness_RequestsArePeriodic : ∃ s : State, s.Live ∧ s.t < s.cfg.modulus ∧
    s.inputs = List.replicate (s.cfg.modulus + s.cfg.modulus) (.event 0b01#2) ++ [] :=
  ⟨{ stateAt 25 5 with inputs := List.replicate ((cfgOf 25 32).modulus + (cfgOf 25 32).modulus) (.event 0b01#2) ++ [] },
    ⟨by decide, by decide, by decide⟩, by decide, rfl⟩

end Sys2Proof.Tests
end

section
/-! The proofs about the scope of the block (spec/00_scope.md): the one step, and the configurations it accepts. -/

namespace Sys2Proof.Machine

/-- A state with no waiting word: an event word of the environment's own is drawn, and the draw is counted. -/
theorem step_of_no_inputs {s : State} (h : s.inputs = []) :
    s.nextWord = .event (Config.envEvent s.envSteps) ∧ s.consume = { s with envSteps := s.envSteps + 1 } := by
  simp [State.nextWord, State.consume, h]

/-- Settles O6: by whether a word waits, each case by its lemma on the word consumed. -/
theorem stepRunsDecodedWord : Obligations.StepRunsDecodedWord := by
  refine ⟨fun s x rest h => ?_, fun s h => ?_⟩
  · obtain ⟨hword, hstate⟩ := step_of_inputs h
    rw [step, hword, hstate]
  · obtain ⟨hword, hstate⟩ := step_of_no_inputs h
    rw [step, hword, hstate]

/-- R83's three conditions, as the model names them. -/
theorem check_eq_none_iff (c : Config) :
    c.check = none ↔ 0 < c.roundPerCount ∧ c.modulus ≤ 2 ^ c.counterWidth ∧ c.segTableOk = true := by
  unfold Config.check
  split
  case isTrue hzero => simp [hzero]
  case isFalse hpos =>
    split
    case isTrue hwide => simp [Nat.not_le.mpr hwide]
    case isFalse hfits => simp [Nat.pos_of_ne_zero hpos, Nat.not_lt.mp hfits]

/-- Settles O9: with the table accepted, the width alone bounds `R`, and `2^32 / 40000` is 107374 with a remainder. -/
theorem thirtyTwoBitCounterAllows : Obligations.ThirtyTwoBitCounterAllows := by
  intro c hwidth htable
  have hbound : c.modulus ≤ 2 ^ 32 ↔ c.roundPerCount ≤ 107374 := by
    rw [Config.modulus]
    omega
  rw [check_eq_none_iff, hwidth, hbound]
  simp only [htable, and_true, Nat.succ_le_iff]

end Sys2Proof.Machine
end

section
/-! The proofs about the state (spec/10_state.md): what a step changes and what it keeps, the trace against the output lines, and the
counter's bound. Each follows from `exec_cases`. -/

namespace Sys2Proof.Machine

-- What the output request and the other updates leave unchanged

@[simp] theorem State.outReq_cfg (s : State) (pat : Pattern) (selw : SelectWord) : (s.outReq pat selw).cfg = s.cfg := rfl
@[simp] theorem State.outReq_t (s : State) (pat : Pattern) (selw : SelectWord) : (s.outReq pat selw).t = s.t := rfl

@[simp] theorem State.advance_lines (s : State) : s.advance.lines = s.lines := rfl
@[simp] theorem State.answer_lines (s : State) (r : LookupResult) : (s.answer r).lines = s.lines := rfl
@[simp] theorem State.raiseFault_lines (s : State) (f : Fault) : (s.raiseFault f).lines = s.lines := rfl
@[simp] theorem State.consume_lines (s : State) : s.consume.lines = s.lines := by simp [State.lines]

-- The frames of the operations

/-- Settles O27: each event's next state in the model's own operations shows which fields it writes. -/
theorem eventFrames : Obligations.EventFrames := by
  intro s s'
  refine ⟨fun h => ?tick, fun h => ?idle, fun b h => ?reset⟩
  case tick =>
    obtain ⟨hlive, -⟩ := exec_cases h
    obtain ⟨pat, -, htick⟩ := execTick_live hlive
    cases htick.symm.trans h
    rfl
  case idle =>
    obtain ⟨-, hnext⟩ := whenLive_next (k := .next) h
    cases hnext
    rfl
  case reset =>
    obtain ⟨hlive, -⟩ := exec_cases h
    cases (execReset_live hlive b).symm.trans h
    rfl

/-- No operation writes the configuration or the refusal mark. -/
theorem exec_keeps_configuration {i : Instr} {s s' : State} (h : exec i s = .next s') :
    s'.cfg = s.cfg ∧ s'.refused = s.refused := by
  obtain ⟨-, ⟨-, rfl⟩ | ⟨-, pat, -, rfl⟩ | ⟨-, rfl⟩ | ⟨-, -, -, ⟨r, rfl⟩ | ⟨a, -, rfl⟩⟩⟩ := exec_cases h <;>
    exact ⟨rfl, rfl⟩

/-- The configuration and the refusal mark across a whole step. -/
theorem step_keeps_configuration {s s' : State} (h : step s = .next s') :
    s'.cfg = s.cfg ∧ s'.refused = s.refused := by
  simpa using exec_keeps_configuration h

/-- Settles O30: no operation writes either, and only a live state has a next one. -/
theorem configurationAndMarksStay : Obligations.ConfigurationAndMarksStay := by
  intro s s' h
  obtain ⟨hcfg, hrefused⟩ := step_keeps_configuration h
  obtain ⟨⟨-, -, hfault⟩, -⟩ := exec_cases h
  exact ⟨hcfg, hrefused, by simpa using hfault⟩

-- The counter

/-- TICK advances the counter, RESET clears it, and every other operation keeps it. -/
theorem exec_counter {i : Instr} {s s' : State} (h : exec i s = .next s') :
    (i = .tick ∧ s'.t = (s.t + 1) % s.cfg.modulus) ∨ ((∃ b, i = .reset b) ∧ s'.t = 0) ∨ s'.t = s.t := by
  obtain ⟨-, ⟨-, rfl⟩ | ⟨htick, pat, -, rfl⟩ | ⟨hreset, rfl⟩ | ⟨-, -, -, ⟨r, rfl⟩ | ⟨a, -, rfl⟩⟩⟩ := exec_cases h
  · exact .inr (.inr rfl)
  · exact .inl ⟨htick, by simp⟩
  · exact .inr (.inl ⟨hreset, rfl⟩)
  · exact .inr (.inr rfl)
  · exact .inr (.inr rfl)

/-- Settles O29: the remaining case of `exec_counter` keeps the counter. -/
theorem onlyTickAndResetWriteCounter : Obligations.OnlyTickAndResetWriteCounter := by
  intro i s s' h hne
  obtain ⟨htick, -⟩ | ⟨hreset, -⟩ | hsame := exec_counter h
  · exact .inl htick
  · exact .inr hreset
  · exact absurd hsame hne

/-- A counter below its modulus fits the `W` bits, as the modulus of an accepted configuration does (R9). -/
theorem State.CounterInv.lt_two_pow {s : State} (hinv : s.CounterInv) : s.t < 2 ^ s.cfg.counterWidth := by
  obtain ⟨hcheck, hlt⟩ := hinv
  obtain ⟨-, hfits, -⟩ := check_eq_none hcheck
  exact hlt.trans_le hfits

/-- The advance is a remainder, RESET's 0 is below a positive modulus, and the rest keeps counter and modulus (R16). -/
theorem step_keeps_counterInv {s s' : State} (hinv : s.CounterInv) (h : step s = .next s') : s'.CounterInv := by
  obtain ⟨hcheck, hlt⟩ := hinv
  obtain ⟨hcfg, -⟩ := step_keeps_configuration h
  have hpos : 0 < s.cfg.modulus := modulus_pos hcheck
  rw [State.CounterInv, hcfg]
  refine ⟨hcheck, ?_⟩
  obtain ⟨-, hadvance⟩ | ⟨-, hzero⟩ | hsame := exec_counter h
  · rw [hadvance, State.consume_cfg]
    exact Nat.mod_lt _ hpos
  · rwa [hzero]
  · rwa [hsame, State.consume_t]

/-- Settles O42: the step lemma of the counter's invariant, whose bound fits the counter's width. -/
theorem counterStaysBelowModulus : Obligations.CounterStaysBelowModulus := by
  intro s s' hinv h
  have hinv' : s'.CounterInv := step_keeps_counterInv hinv h
  exact ⟨hinv', hinv'.lt_two_pow⟩

-- The trace and the output lines

/-- A masked write leaves the lines that replaying its record gives (R34): masking the value again changes nothing. -/
theorem memWriteOut_lines_replayItem (s : State) (mask v : Lines) :
    (s.memWriteOut mask v).lines = replayItem s.lines (.write mask (v &&& mask)) := by
  rw [memWriteOut_lines, replayItem, BitVec.and_assoc, BitVec.and_self]

/-- The pattern in front of eight zero bits is 256 times the pattern, and W2's mask keeps all of it (R70). -/
theorem append_and_segmentMask (pat : Pattern) : (pat ++ 0x00#8) &&& 0x7F00#15 = BitVec.ofNat 15 (256 * pat.toNat) := by
  revert pat
  decide

/-- The select word of pin index `p`, as lines, is `2^p` (R69, R33). -/
theorem selDecode_setWidth (p : PinIndex) : (selDecode p).setWidth 15 = BitVec.ofNat 15 (2 ^ p.toNat) := by
  revert p
  decide

/-- The wanted writes, in the form in which `outReq_trace` records them. -/
theorem wantedWrites_toNat (pat : Pattern) (p : PinIndex) :
    wantedWrites pat p.toNat = [.write 0x00FF#15 (0x0000#15 &&& 0x00FF#15),
      .write 0x7F00#15 ((pat ++ 0x00#8) &&& 0x7F00#15),
      .write ((selDecode p).setWidth 15) ((selDecode p).setWidth 15 &&& (selDecode p).setWidth 15)] := by
  rw [wantedWrites, append_and_segmentMask, BitVec.and_self, selDecode_setWidth, BitVec.zero_and]

/-- An output request appends the wanted writes (R70). -/
theorem outReq_trace_wantedWrites (s : State) (pat : Pattern) (p : PinIndex) :
    (s.outReq pat (selDecode p)).trace = s.trace ++ wantedWrites pat p.toNat := by
  rw [outReq_trace, wantedWrites_toNat]

/-- An output request leaves the lines that replaying the wanted writes gives. -/
theorem outReq_lines_replay (s : State) (pat : Pattern) (p : PinIndex) :
    (s.outReq pat (selDecode p)).lines = replay s.lines (wantedWrites pat p.toNat) := by
  simp only [wantedWrites_toNat, replay, List.foldl, State.outReq, State.assertLine, State.driveSegments, State.deassertAll,
    memWriteOut_lines_replayItem]

/-- An operation writes neither trace nor lines, or is a RESET and appends its marker, or appends the writes of one output request
and leaves the lines they make. -/
theorem exec_trace_lines {i : Instr} {s s' : State} (h : exec i s = .next s') :
    (s'.trace = s.trace ∧ s'.lines = s.lines) ∨
    ((∃ b, i = .reset b) ∧ s'.trace = s.trace ++ [.resetMark]) ∨
    ∃ (pat : Pattern) (p : PinIndex), s'.trace = s.trace ++ wantedWrites pat p.toNat ∧
      s'.lines = replay s.lines (wantedWrites pat p.toNat) := by
  obtain ⟨-, ⟨-, rfl⟩ | ⟨-, pat, -, rfl⟩ | ⟨hreset, rfl⟩ | ⟨-, -, -, ⟨r, rfl⟩ | ⟨a, -, rfl⟩⟩⟩ := exec_cases h
  · exact .inl ⟨rfl, rfl⟩
  · exact .inr (.inr ⟨pat, _, outReq_trace_wantedWrites s pat _, outReq_lines_replay s pat _⟩)
  · exact .inr (.inl ⟨hreset, rfl⟩)
  · exact .inl ⟨rfl, rfl⟩
  · exact .inl ⟨rfl, rfl⟩

/-- `exec_trace_lines` for a whole step: consuming the word writes neither trace nor lines. -/
theorem step_trace_lines {s s' : State} (h : step s = .next s') :
    (s'.trace = s.trace ∧ s'.lines = s.lines) ∨
    ((∃ b, decode s.nextWord = .reset b) ∧ s'.trace = s.trace ++ [.resetMark]) ∨
    ∃ (pat : Pattern) (p : PinIndex), s'.trace = s.trace ++ wantedWrites pat p.toNat ∧
      s'.lines = replay s.lines (wantedWrites pat p.toNat) := by
  simpa only [State.consume_trace, State.consume_lines] using exec_trace_lines h

/-- Settles O31: the three cases of `step_trace_lines`. -/
theorem traceOnlyGrows : Obligations.TraceOnlyGrows := by
  intro s s' h
  obtain ⟨htrace, -⟩ | ⟨-, htrace⟩ | ⟨pat, p, htrace, -⟩ := step_trace_lines h
  · exact ⟨[], by rw [htrace, List.append_nil], .inl rfl⟩
  · exact ⟨_, htrace, .inr (.inl rfl)⟩
  · exact ⟨_, htrace, .inr (.inr ⟨pat, p.toNat, p.isLt, rfl⟩)⟩

/-- Settles O32: a step that is no RESET appends nothing, or the writes whose replay its lines are. -/
theorem linesFollowTheTrace : Obligations.LinesFollowTheTrace := by
  intro s s' hnoReset h
  obtain ⟨htrace, hlines⟩ | ⟨⟨b, hreset⟩, -⟩ | ⟨pat, p, htrace, hlines⟩ := step_trace_lines h
  · exact ⟨[], by rw [htrace, List.append_nil], hlines⟩
  · exact absurd hreset (hnoReset b)
  · exact ⟨_, htrace, hlines⟩

-- The state after reset

/-- The counter 0 is below the positive modulus (R16). -/
theorem resetWith_counterInv {c : Config} (hcheck : c.check = none) : (State.resetWith c).CounterInv :=
  ⟨hcheck, modulus_pos hcheck⟩

/-- The refusal mark is the check's verdict, there is no fault, and no word waits (R29; log entry 3). -/
theorem resetWith_safeInv {c : Config} (hcheck : c.check = none) : (State.resetWith c).SafeInv :=
  ⟨⟨hcheck, hcheck, rfl⟩, nofun, modulus_pos hcheck⟩

/-- No TICK has come since the one marker of the trace. -/
theorem resetWith_displayInv {c : Config} (hcheck : c.check = none) : (State.resetWith c).DisplayInv :=
  ⟨hcheck, 0, (Nat.zero_mod _).symm, rfl, fun hne => absurd rfl hne⟩

/-- The configuration of log entry 5 is accepted. -/
theorem standard_check : Config.standard.check = none := by decide

/-- Settles O41: each invariant by its own lemma, for `State.reset` at the standard configuration. -/
theorem resetMeetsTheInvariants : Obligations.ResetMeetsTheInvariants :=
  ⟨fun _ hcheck => ⟨resetWith_counterInv hcheck, resetWith_safeInv hcheck, resetWith_displayInv hcheck⟩,
    resetWith_counterInv standard_check, resetWith_safeInv standard_check, resetWith_displayInv standard_check⟩

end Sys2Proof.Machine
end

section

/-! The proofs about the output port (spec/20_memory.md): the masked write of R34, line by line. -/

namespace Sys2Proof.Machine

/-- Bit `i` of the 15 output lines after a masked write (R34), read off the merged word of `memWriteOut_lines`. -/
theorem memWriteOut_lines_bit (s : State) (mask v : Lines) {i : Nat} (hi : i < 15) :
    (s.memWriteOut mask v).lines.getLsbD i = if mask.getLsbD i then v.getLsbD i else s.lines.getLsbD i := by
  rw [memWriteOut_lines, BitVec.getLsbD_or, BitVec.getLsbD_and, BitVec.getLsbD_and, BitVec.getLsbD_not]
  cases mask.getLsbD i <;> simp [hi]

/-- Settles O17: the layout is `lines_bit`, the merge `memWriteOut_lines_bit`; the record and the frame hold by definition. -/
theorem maskedWriteMerges : Obligations.MaskedWriteMerges := by
  intro s mask v
  refine ⟨fun p hp => ?selectLines, fun i _ => ?segmentLines, fun i hi => memWriteOut_lines_bit s mask v hi, rfl⟩
  case selectLines => rw [lines_bit, if_pos hp]
  case segmentLines => rw [lines_bit, if_neg (by omega), Nat.add_sub_cancel_left]

end Sys2Proof.Machine
end

section

/-! The proofs about encoding (spec/30_encoding.md): the decoder against the encoder and the opcode table, the bare table word, TICK
and its output ports, and the event programs. -/

namespace Sys2Proof.Machine

-- Decoding and encoding

/-- Addresses 10 and 11 decode to the row `101x`, the address kept as its operand (R52). -/
theorem decodeSegAddr_of_encIllA_wf {a : SegAddr} (hwf : (Instr.encIllA a).wf = true) : decodeSegAddr a = .encIllA a := by
  have ha : a.toNat = 10 ∨ a.toNat = 11 := by simpa [Instr.wf] using hwf
  obtain ha | ha := ha <;> simp only [decodeSegAddr, ha]

/-- Addresses from 12 on decode to the row `11xx`, the address kept as its operand: no earlier case of the decoder takes them (R52). -/
theorem decodeSegAddr_of_encIllC_wf {a : SegAddr} (hwf : (Instr.encIllC a).wf = true) : decodeSegAddr a = .encIllC a := by
  have ha : 12 ≤ a.toNat := by simpa [Instr.wf] using hwf
  unfold decodeSegAddr
  split
  case h_13 => rfl
  all_goals omega

/-- The word of RESET decodes to it with the tick bit it was given (R48, R87). -/
theorem decodeEvent_reset (b : BitVec 1) : decodeEvent (0b1#1 ++ b) = .reset b := by
  revert b
  decide

/-- Settles O3: the rows with an operand by their lemmas; the word of any other row is a literal, which the decoder reads. -/
theorem decodeOfEncode : Obligations.DecodeOfEncode := by
  intro i hwf
  cases i with
  | reset b => exact decodeEvent_reset b
  | encIllA a => exact decodeSegAddr_of_encIllA_wf hwf
  | encIllC a => exact decodeSegAddr_of_encIllC_wf hwf
  | idle | tick => rfl
  | enc0 | enc1 | enc2 | enc3 | enc4 | enc5 | enc6 | enc7 | enc8 | enc9 => rfl
  | div0 | div1 | div2 | div3 => rfl
  | sel0 | sel1 | sel2 | sel3 | sel4 | sel5 | sel6 | sel7 => rfl

/-- The four event words (R48). -/
theorem encode_decodeEvent (ev : EventWord) : (decodeEvent ev).wf = true ∧ encode (decodeEvent ev) = .event ev := by
  revert ev
  decide

/-- The sixteen segment ROM addresses (R49, R52). -/
theorem encode_decodeSegAddr (a : SegAddr) : (decodeSegAddr a).wf = true ∧ encode (decodeSegAddr a) = .segRom a := by
  revert a
  decide

/-- The four divisor ROM addresses (R50). -/
theorem encode_decodeSlot (s : Slot) : (decodeSlot s).wf = true ∧ encode (decodeSlot s) = .divRom s := by
  revert s
  decide

/-- The eight select decoder inputs (R51). -/
theorem encode_decodePin (p : PinIndex) : (decodePin p).wf = true ∧ encode (decodePin p) = .selDec p := by
  revert p
  decide

/-- Settles O4: each group's decoder keeps the whole word of its group. -/
theorem encodeOfDecode : Obligations.EncodeOfDecode := by
  intro x
  cases x with
  | event ev => exact encode_decodeEvent ev
  | segRom a => exact encode_decodeSegAddr a
  | divRom s => exact encode_decodeSlot s
  | selDec p => exact encode_decodePin p

/-- The names of the opcode-table rows that match a word: the decoded operation's name, once (R54). -/
theorem matchingRows_names (x : InputWord) :
    (opcodeTable.filter (rowMatches x)).map OpcodeRow.name = [mnemonicOf (decode x)] := by
  cases x with
  | event ev => revert ev; decide
  | segRom a => revert a; decide
  | divRom s => revert s; decide
  | selDec p => revert p; decide

/-- Settles O5: one name among the matching rows means one matching row, and it bears that name. -/
theorem exactlyOneRowMatches : Obligations.ExactlyOneRowMatches := by
  intro x
  obtain ⟨r, hrows, hname⟩ := List.map_eq_singleton_iff.mp (matchingRows_names x)
  have hmem : ∀ r', r' ∈ opcodeTable ∧ rowMatches x r' = true ↔ r' = r := fun r' => by
    rw [← List.mem_filter, hrows, List.mem_singleton]
  obtain ⟨hr, -⟩ := (hmem r).mpr rfl
  exact ⟨r, hr, hname, fun r' hr' => ⟨fun hmatch => (hmem r').mp ⟨hr', hmatch⟩, fun heq => ((hmem r').mpr heq).2⟩⟩

/-- Settles O1: each event word is a literal that the decoder reads. -/
theorem eventCodesDecode : Obligations.EventCodesDecode := ⟨rfl, rfl, rfl, rfl⟩

/-- Settles O2: each word is the word of its well-formed operation (O3). -/
theorem unitWordsDecode : Obligations.UnitWordsDecode :=
  ⟨decodeOfEncode .enc4 rfl, decodeOfEncode .enc9 rfl, decodeOfEncode (.encIllA 0b1011#4) rfl,
    decodeOfEncode (.encIllC 0b1110#4) rfl, decodeOfEncode .div2 rfl, decodeOfEncode .sel5 rfl⟩

-- The bare table word

/-- A bare word with an operation is one that is read as some input word. -/
theorem decodeTableWord_eq_some {nbits w : Nat} {i : Instr} (h : decodeTableWord nbits w = some i) :
    ∃ x, readTableWord nbits w = .ok x ∧ decode x = i := by
  unfold decodeTableWord at h
  split at h
  case h_1 x hread => exact ⟨x, hread, Option.some.inj h⟩
  case h_2 => cases h

/-- A bare word that is read as `x` is placed as `x`, in front of the queue. -/
theorem withFetchWord_of_read {s : State} {nbits w : Nat} {x : InputWord} (h : readTableWord nbits w = .ok x) :
    s.withFetchWord nbits w = { s with inputs := x :: s.inputs } := by
  rw [State.withFetchWord, h]

/-- Settles O7: the placed word is the oldest waiting one, and consuming it leaves the state as it was (O6). -/
theorem placedWordRuns : Obligations.PlacedWordRuns := by
  intro s nbits w i h
  obtain ⟨x, hread, rfl⟩ := decodeTableWord_eq_some h
  obtain ⟨hwaiting, -⟩ := stepRunsDecodedWord
  rw [withFetchWord_of_read hread]
  exact hwaiting _ x s.inputs rfl

-- The values a TICK derives, in the plain numbers of the statements

/-- Two divisions in a row are one (R66). -/
theorem dispVal_eq_wantedValue (c : Config) (t : Nat) : dispVal c.roundPerCount t = wantedValue c t := by
  rw [dispVal, wantedValue, digitsNum, Nat.div_div_eq_div_mul, Nat.mul_comm]

@[simp] theorem slotOf_toNat (t : Nat) : (slotOf t).toNat = t % 4 := by
  rw [slotOf, digitsNum, BitVec.toNat_ofNat]
  omega

/-- The divisor ROM holds the powers of ten (R32). -/
@[simp] theorem memReadDivRom_toNat (s : Slot) : (memReadDivRom s).toNat = 10 ^ s.toNat := by
  revert s
  decide

/-- The digit of the displayed value at the slot (R64). -/
theorem digitOf_eq_wantedDigit (c : Config) (t : Nat) :
    digitOf (dispVal c.roundPerCount t) (memReadDivRom (slotOf t)) = wantedDigit c t := by
  rw [digitOf, wantedDigit, memReadDivRom_toNat, slotOf_toNat, dispVal_eq_wantedValue]

/-- A pin index fits its three bits (R67). -/
@[simp] theorem pinIndexOf_toNat (s : Slot) (v : Nat) : (pinIndexOf s v).toNat = s.toNat + 4 * (v % 2) := by
  have hs : s.toNat < 4 := s.isLt
  rw [pinIndexOf, BitVec.toNat_ofNat]
  omega

/-- The line the tick asserts (R67). -/
theorem pinIndexOf_eq_wantedLine (c : Config) (t : Nat) :
    (pinIndexOf (slotOf t) (dispVal c.roundPerCount t)).toNat = wantedLine c t := by
  rw [pinIndexOf_toNat, slotOf_toNat, dispVal_eq_wantedValue, wantedLine]

/-- The select word of pin index `p` is `2^p` (R69). -/
theorem selDecode_eq_ofNat (p : PinIndex) : selDecode p = BitVec.ofNat 8 (2 ^ p.toNat) := by
  revert p
  decide

-- TICK

/-- TICK of a live state, each field it writes in the statements' plain numbers (R73). -/
theorem exec_tick_live {s : State} (h : s.Live) :
    ∃ pat, s.cfg.segEntry (wantedDigit s.cfg s.t) = some pat ∧
      exec .tick s = .next { s with
        t := (s.t + 1) % s.cfg.modulus
        selQ := BitVec.ofNat 8 (2 ^ wantedLine s.cfg s.t)
        segQ := pat
        trace := s.trace ++ wantedWrites pat (wantedLine s.cfg s.t) } := by
  obtain ⟨pat, hpat, htick⟩ := execTick_live h
  rw [digitOf_eq_wantedDigit] at hpat
  refine ⟨pat, hpat, htick.trans ?_⟩
  obtain ⟨hseg, hsel⟩ := outReq_latches s pat (selDecode (pinIndexOf (slotOf s.t) (dispVal s.cfg.roundPerCount s.t)))
  rw [outReq_frame, hseg, hsel, outReq_trace_wantedWrites, selDecode_eq_ofNat, pinIndexOf_eq_wantedLine]
  rfl

/-- Settles O13: the ports are the latches of `exec_tick_live`'s next state, and `cont` is constant. -/
theorem tickDrivesPorts : Obligations.TickDrivesPorts := by
  intro s h
  obtain ⟨pat, hpat, htick⟩ := exec_tick_live h
  exact ⟨_, pat, htick, hpat, rfl⟩

/-- A live state that meets a waiting TICK word takes the step, stays live, and issues that tick's writes. -/
theorem step_tick_live {s : State} {rest : List InputWord} (h : s.Live) (hin : s.inputs = .event 0b01#2 :: rest) :
    ∃ s', step s = .next s' ∧ s'.Live ∧ s'.cfg = s.cfg ∧ s'.inputs = rest ∧ s'.t = (s.t + 1) % s.cfg.modulus ∧
      s'.trace = s.trace ++ wantedTick s.cfg s.t := by
  obtain ⟨hwaiting, -⟩ := stepRunsDecodedWord
  have hlive : ({ s with inputs := rest } : State).Live := h
  obtain ⟨pat, hpat, htick⟩ := exec_tick_live hlive
  refine ⟨_, (hwaiting s _ rest hin).trans htick, h, rfl, rfl, rfl, ?_⟩
  simp only [wantedTick, hpat]

/-- The writes of `n + 1` TICKs from counter `t` are those of the first, then those of `n` from the advanced counter. -/
theorem wantedTicks_succ (c : Config) {t : Nat} (ht : t < c.modulus) (n : Nat) :
    (List.range (n + 1)).flatMap (fun k => wantedTick c ((t + k) % c.modulus)) =
      wantedTick c t ++ (List.range n).flatMap (fun k => wantedTick c (((t + 1) % c.modulus + k) % c.modulus)) := by
  simp only [List.range_succ_eq_map, List.flatMap_cons, List.flatMap_map, Nat.add_zero, Nat.mod_eq_of_lt ht, Nat.mod_add_mod,
    Nat.succ_eq_add_one, Nat.add_assoc, Nat.add_comm 1]

/-- Settles O47: by induction on the number of TICKs, the first of them by `step_tick_live`. -/
theorem ticksRun : Obligations.TicksRun := by
  intro s n
  induction n generalizing s with
  | zero =>
    intro rest hlive ht hin
    exact ⟨s, rfl, hlive, rfl, hin, (Nat.mod_eq_of_lt ht).symm, (List.append_nil _).symm⟩
  | succ n ih =>
    intro rest hlive ht hin
    obtain ⟨s₁, hstep, hlive₁, hcfg₁, hin₁, ht₁, htrace₁⟩ := step_tick_live hlive hin
    have hlt₁ : s₁.t < s₁.cfg.modulus := by
      obtain ⟨-, hcheck, -⟩ := hlive
      rw [ht₁, hcfg₁]
      exact Nat.mod_lt _ (modulus_pos hcheck)
    obtain ⟨s₂, hrun, hlive₂, hcfg₂, hin₂, ht₂, htrace₂⟩ := ih s₁ rest hlive₁ hlt₁ hin₁
    refine ⟨s₂, (run_of_step n hstep).trans hrun, hlive₂, hcfg₂.trans hcfg₁, hin₂, ?counter, ?trace⟩
    case counter => rw [ht₂, ht₁, hcfg₁, Nat.mod_add_mod, Nat.add_assoc, Nat.add_comm 1]
    case trace => rw [htrace₂, htrace₁, hcfg₁, ht₁, wantedTicks_succ s.cfg ht, List.append_assoc]

-- Event programs

/-- The words of `RESET`, `STEPTO k`: a RESET, then `k` TICKs (R57). -/
theorem assembleProgram_reset_stepTo (k : Nat) :
    assembleProgram [.reset, .stepTo k] = some (.event 0b10#2 :: List.replicate k (.event 0b01#2)) := by
  simp [assembleProgram, programOk, freshAfter, lineWords]

/-- A live state that meets a waiting RESET word restarts (R78). -/
theorem step_reset_live {s : State} {rest : List InputWord} (h : s.Live) (hin : s.inputs = .event 0b10#2 :: rest) :
    step s = .next ({ s with inputs := rest } : State).restart := by
  obtain ⟨hwaiting, -⟩ := stepRunsDecodedWord
  have hlive : ({ s with inputs := rest } : State).Live := h
  exact (hwaiting s _ rest hin).trans (execReset_live hlive 0#1)

/-- Settles O49: RESET clears the counter of a live state, and the `k` TICKs count from there (O47). -/
theorem stepToReaches : Obligations.StepToReaches := by
  intro s k hlive
  refine ⟨.event 0b10#2 :: List.replicate k (.event 0b01#2), ?_⟩
  have hloaded : (s.loadInputs (.event 0b10#2 :: List.replicate k (.event 0b01#2))).Live := hlive
  have hreset := step_reset_live hloaded (State.loadInputs_inputs _ _)
  have ⟨_, hcheck, _⟩ := hlive
  obtain ⟨s', hrun, -, -, -, ht, -⟩ :=
    ticksRun (s.loadInputs (List.replicate k (.event 0b01#2))).restart k [] hlive (modulus_pos hcheck)
      (List.append_nil _).symm
  refine ⟨s', assembleProgram_reset_stepTo k, by simp, (run_of_step k hreset).trans hrun, ?_⟩
  simpa using ht

/-- Settles O50: the program is a literal, and so are its words. -/
theorem eventProgramWords : Obligations.EventProgramWords := ⟨rfl, rfl⟩

end Sys2Proof.Machine
end

section

/-! The proofs about the segment ROM (spec/40_segment_rom.md): ENCODE at a digit and at an address with no entry, and the frame of
every lookup. -/

namespace Sys2Proof.Machine

-- ENCODE at a digit

/-- ENCODE of a digit in a live state answers the digit's entry, which an accepted configuration has (R58, R83). -/
theorem encodeAlone_digit {s : State} (h : s.Live) (d : Fin 10) :
    ∃ pat, s.cfg.segEntry d = some pat ∧ encodeAlone (BitVec.ofNat 4 d) s = .next (s.answer (.pattern pat)) := by
  have ⟨_, hcheck, _⟩ := h
  obtain ⟨-, -, hentries⟩ := check_eq_none hcheck
  obtain ⟨pat, hpat⟩ := hentries d d.isLt
  have haddr : (BitVec.ofNat 4 d).toNat = d := by
    rw [BitVec.toNat_ofNat]
    omega
  refine ⟨pat, hpat, ?_⟩
  rw [encodeAlone_live h, encodeThen_entry (by omega) (by rwa [haddr])]

/-- Settles O23: each row is ENCODE of its digit. -/
theorem encodeReturnsPattern : Obligations.EncodeReturnsPattern := by
  intro s hlive
  have hdigit := encodeAlone_digit hlive
  simp only [List.forall_mem_cons]
  exact ⟨hdigit 0, hdigit 1, hdigit 2, hdigit 3, hdigit 4, hdigit 5, hdigit 6, hdigit 7, hdigit 8, hdigit 9, nofun⟩

/-- Settles O39: the divisor ROM holds the powers of ten, and a digit is its own address, one with an entry (R60). -/
theorem tickPathAddressInRange : Obligations.TickPathAddressInRange := by
  intro v slot
  obtain ⟨haddr, hdigit⟩ := segAddrOf_digit v (memReadDivRom slot)
  exact ⟨memReadDivRom_toNat slot, Nat.le_of_lt_succ hdigit, haddr⟩

-- ENCODE at an address with no entry

/-- ENCODE at an address 10 to 15 raises its fault, whatever would follow the pattern (R59). -/
theorem encodeThen_outOfRange {a : SegAddr} (ha : 10 ≤ a.toNat) (s : State) (k : Pattern → StepOutcome) :
    s.encodeThen a k = .next (s.raiseFault (.segRomRange a)) := by
  have hbeyond : ¬ a.toNat ≤ 9 := by omega
  simp only [State.encodeThen, memReadSegRom, if_neg hbeyond]

/-- ENCODE used on its own in a live state raises the fault of R59 at an address 10 to 15. -/
theorem encodeAlone_outOfRange {s : State} (h : s.Live) {a : SegAddr} (ha : 10 ≤ a.toNat) :
    encodeAlone a s = .next (s.raiseFault (.segRomRange a)) := by
  rw [encodeAlone_live h, encodeThen_outOfRange ha]

/-- Settles O24: each illegal row decodes from its well-formed addresses and is ENCODE there. -/
theorem encodeOutOfRangeFaults : Obligations.EncodeOutOfRangeFaults := by
  intro s a hlive
  refine ⟨fun ha => ?rowA, fun ha => ?rowC, fun ha k => encodeThen_outOfRange ha s k⟩
  case rowA =>
    have hwf : (Instr.encIllA a).wf = true := by obtain rfl | rfl := ha <;> rfl
    have hge : 10 ≤ a.toNat := by obtain rfl | rfl := ha <;> decide
    exact ⟨decodeSegAddr_of_encIllA_wf hwf, encodeAlone_outOfRange hlive hge⟩
  case rowC =>
    have hwf : (Instr.encIllC a).wf = true := decide_eq_true ha
    exact ⟨decodeSegAddr_of_encIllC_wf hwf, encodeAlone_outOfRange hlive (by omega)⟩

-- The frame of the lookups

/-- ENCODE at an address 0 to 9 raises no fault. -/
theorem encodeAlone_keeps_fault {s s' : State} {a : SegAddr} (ha : a.toNat ≤ 9) (h : encodeAlone a s = .next s') :
    s'.fault = s.fault := by
  obtain ⟨-, hencode⟩ := whenLive_next h
  obtain ⟨pat, -, hanswer⟩ | ⟨hbeyond, -⟩ := encodeThen_next hencode
  · cases hanswer
    rfl
  · omega

/-- Only the two illegal rows can change the fault mark: the tick path and the legal rows look up digits. -/
theorem exec_keeps_fault {i : Instr} {s s' : State} (hA : ∀ a, i ≠ .encIllA a) (hC : ∀ a, i ≠ .encIllC a)
    (h : exec i s = .next s') : s'.fault = s.fault := by
  obtain ⟨hlive, -⟩ := exec_cases h
  obtain ⟨htick, hidle, hreset⟩ := eventFrames s s'
  cases i with
  | idle => rw [hidle h]
  | tick => rw [htick h]
  | reset b => rw [hreset b h]
  | enc0 | enc1 | enc2 | enc3 | enc4 | enc5 | enc6 | enc7 | enc8 | enc9 =>
    exact encodeAlone_keeps_fault (by decide) h
  | encIllA a => exact absurd rfl (hA a)
  | encIllC a => exact absurd rfl (hC a)
  | div0 | div1 | div2 | div3 =>
    cases (divSelAlone_live hlive _).symm.trans h
    rfl
  | sel0 | sel1 | sel2 | sel3 | sel4 | sel5 | sel6 | sel7 =>
    cases (selDecAlone_live hlive _).symm.trans h
    rfl

/-- Settles O28: a lookup answers or raises the fault, and neither writes more than its own field. -/
theorem lookupFrames : Obligations.LookupFrames := by
  intro i s s' hidle htick hreset h
  refine ⟨?frame, fun hA hC => exec_keeps_fault hA hC h⟩
  obtain ⟨-, ⟨rfl, -⟩ | ⟨rfl, -⟩ | ⟨⟨b, rfl⟩, -⟩ | ⟨-, -, -, ⟨r, rfl⟩ | ⟨a, -, rfl⟩⟩⟩ := exec_cases h
  · exact absurd rfl hidle
  · exact absurd rfl htick
  · exact absurd rfl (hreset b)
  · rfl
  · rfl

end Sys2Proof.Machine
end

section

/-! The proofs about the BCD digit extractor (spec/41_bcd_digit_extractor.md): the displayed value, the slot, the digits, and the rows of
the divisor ROM. -/

namespace Sys2Proof.Machine

-- The displayed value

/-- The nested division is the one division by `4R` (R66), `R = 0` included. -/
theorem dispVal_eq_div (r t : Nat) : dispVal r t = t / (4 * r) := by
  rw [dispVal, digitsNum, Nat.div_div_eq_div_mul, Nat.mul_comm]

/-- Settles O33: two divisions in a row divide by the product. -/
theorem nestedDivision : Obligations.NestedDivision := fun r t _ => dispVal_eq_div r t

/-- The value has reached `v` exactly from tick `4Rv` on. -/
theorem le_dispVal_iff {r : Nat} (hr : 1 ≤ r) (v t : Nat) : v ≤ dispVal r t ↔ 4 * r * v ≤ t := by
  rw [dispVal_eq_div, Nat.le_div_iff_mul_le (by omega), Nat.mul_comm]

/-- The value is still below `v` exactly before tick `4Rv`. -/
theorem dispVal_lt_iff {r : Nat} (hr : 1 ≤ r) (v t : Nat) : dispVal r t < v ↔ t < 4 * r * v := by
  rw [← Nat.not_le, le_dispVal_iff hr, Nat.not_le]

/-- Settles O35: the three bounds are the ticks at which the value reaches 10000, 9999 and 1. -/
theorem displayedValueRange : Obligations.DisplayedValueRange := by
  intro c t hr ht
  have hbelow : dispVal c.roundPerCount t < 10000 := by
    rw [dispVal_lt_iff hr]
    rw [Config.modulus] at ht
    omega
  have hlast := le_dispVal_iff hr 9999 t
  have hfirst := dispVal_lt_iff hr 1 t
  exact ⟨by omega, by omega, by omega⟩

/-- Settles O36: division is monotone in the dividend, and its quotient rises where the divisor divides the successor. -/
theorem displayedValueRises : Obligations.DisplayedValueRises := by
  intro r _
  simp only [dispVal_eq_div]
  refine ⟨fun t t' hle => Nat.div_le_div_right hle, fun t => ?_⟩
  simp only [Nat.succ_div, Nat.dvd_iff_mod_eq_zero]

-- The slot

/-- The slot is the two low bits of the counter (R62). -/
theorem slotOf_eq_ofNat (t : Nat) : slotOf t = BitVec.ofNat 2 t :=
  BitVec.eq_of_toNat_eq (by rw [slotOf_toNat, BitVec.toNat_ofNat])

/-- The wrap leaves the slot as it would be without it, because `M` is a multiple of 4 (R62). -/
theorem slotOf_mod_modulus (c : Config) (t : Nat) : slotOf (t % c.modulus) = slotOf t := by
  have hdvd : digitsNum ∣ c.modulus := ⟨10000 * c.roundPerCount, by rw [Config.modulus, digitsNum]; omega⟩
  rw [slotOf, Nat.mod_mod_of_dvd t hdvd, slotOf]

/-- Settles O34: with the wrap out of the way, the successor of the counter is the successor of its low bits. -/
theorem slotGoesRound : Obligations.SlotGoesRound := by
  intro c t
  refine ⟨slotOf_toNat t, slotOf_eq_ofNat t, ?_⟩
  rw [slotOf_mod_modulus, slotOf_eq_ofNat, slotOf_eq_ofNat, BitVec.ofNat_add]

/-- From a multiple of 4 on, slot `s` comes up at the ticks that leave the remainder `s` modulo 4. -/
theorem slotOf_four_mul_add_beq (k i : Nat) (s : Slot) : (slotOf (4 * k + i) == s) = decide (i ≡ s.toNat [MOD 4]) := by
  have hs : s.toNat % 4 = s.toNat := Nat.mod_eq_of_lt s.isLt
  rw [Bool.eq_iff_iff, beq_iff_eq, decide_eq_true_iff, ← BitVec.toNat_inj, slotOf_toNat, Nat.mul_add_mod, Nat.ModEq, hs]

/-- `4R` ticks in a row from a multiple of 4 on show each slot `R` times. -/
theorem slotOf_count (r k : Nat) (s : Slot) :
    ((List.range (4 * r)).filter fun i => slotOf (4 * k + i) == s).length = r := by
  have hcount : Nat.count (· ≡ s.toNat [MOD 4]) (4 * r) = r := by
    rw [Nat.count_modEq_card (4 * r) (by decide), Nat.mul_div_cancel_left r (by decide), Nat.mul_mod_right,
      if_neg (Nat.not_lt_zero _), Nat.add_zero]
  simp only [slotOf_four_mul_add_beq]
  rw [← List.countP_eq_length_filter]
  exact hcount

/-- Settles O37: value `v` is shown from where `v` is reached to where `v + 1` is, and those ticks start at a multiple of 4. -/
theorem eachSlotRTimesPerValue : Obligations.EachSlotRTimesPerValue := by
  intro r v hr
  refine ⟨fun t => ?ticks, fun s => ?slots⟩
  case ticks =>
    have hreached := le_dispVal_iff hr v t
    have hpassed := dispVal_lt_iff hr (v + 1) t
    rw [Nat.mul_add_one] at hpassed
    omega
  case slots =>
    rw [Nat.mul_assoc]
    exact slotOf_count r (r * v) s

-- The digits

/-- The digit at slot `s` is the value's decimal digit number `s` (R64). -/
theorem digitOf_memReadDivRom (v : Nat) (s : Slot) : digitOf v (memReadDivRom s) = v / 10 ^ s.toNat % 10 := by
  rw [digitOf, memReadDivRom_toNat]

/-- Settles O38: a value below 10000 has no digit beyond the thousands, so the four remainders put it together again. -/
theorem digitsRecomposeValue : Obligations.DigitsRecomposeValue := by
  intro v hv
  have hthousands : v / 1000 % 10 = v / 1000 := Nat.mod_eq_of_lt (by omega)
  simp only [digitOf_memReadDivRom, BitVec.toNat_ofNat, Nat.reducePow, Nat.reduceMod, hthousands]
  omega

-- The rows of the divisor ROM

/-- Settles O25: each row is the divisor lookup at its slot. -/
theorem divSelReturnsDivisor : Obligations.DivSelReturnsDivisor := by
  intro s hlive
  have hlookup := divSelAlone_live hlive
  simp only [List.forall_mem_cons]
  exact ⟨hlookup 0#2, hlookup 1#2, hlookup 2#2, hlookup 3#2, nofun⟩

end Sys2Proof.Machine
end

section

/-! The proofs about the digit selector (spec/42_digit_selector.md): the pin index and the select decoder, the line states inside one
output request, the display's history since the last RESET, and the lines that history leaves asserted. -/

namespace Sys2Proof.Machine

-- The pin index and the select decoder

/-- Settles O40: the sum is the concatenation's number, and below 4 exactly when its front bit is 0. -/
theorem pinIndexIsBankAndSlot : Obligations.PinIndexIsBankAndSlot := by
  intro s v
  have hslot : s.toNat < 4 := s.isLt
  refine ⟨pinIndexOf_toNat s v, BitVec.eq_of_toNat_eq ?concat, ?bank⟩
  case concat =>
    rw [pinIndexOf_toNat, BitVec.toNat_append, ← Nat.shiftLeft_add_eq_or_of_lt hslot, BitVec.toNat_ofNat, Nat.shiftLeft_eq]
    omega
  case bank =>
    rw [pinIndexOf_toNat]
    omega

/-- A power of two has one bit, at any width that holds it. -/
theorem ofNat_two_pow_bit {w i : Nat} (p : Nat) (hi : i < w) : (BitVec.ofNat w (2 ^ p)).getLsbD i = decide (p = i) := by
  rw [BitVec.getLsbD_ofNat, Nat.testBit_two_pow, decide_eq_true hi, Bool.true_and]

/-- Settles O26: each row is the decoder's lookup at its pin index, and the decoder's word is `2^p`. -/
theorem selDecReturnsOneHot : Obligations.SelDecReturnsOneHot := by
  refine ⟨fun s hlive => ?rows, fun p j hj => ?oneHot⟩
  case rows =>
    have hlookup := selDecAlone_live hlive
    simp only [List.forall_mem_cons]
    exact ⟨hlookup 0#3, hlookup 1#3, hlookup 2#3, hlookup 3#3, hlookup 4#3, hlookup 5#3, hlookup 6#3, hlookup 7#3, nofun⟩
  case oneHot =>
    rw [selDecode_eq_ofNat, ofNat_two_pow_bit _ hj, decide_eq_true_iff, eq_comm]

-- The line states inside one output request

/-- Only TICK and RESET write the latches (R23, R30). -/
theorem exec_keeps_latches {i : Instr} {s s' : State} (htick : i ≠ .tick) (hreset : ∀ b, i ≠ .reset b)
    (h : exec i s = .next s') : s'.selQ = s.selQ ∧ s'.segQ = s.segQ := by
  obtain ⟨-, ⟨-, rfl⟩ | ⟨rfl, -⟩ | ⟨⟨b, rfl⟩, -⟩ | ⟨-, -, -, ⟨r, rfl⟩ | ⟨a, -, rfl⟩⟩⟩ := exec_cases h
  · exact ⟨rfl, rfl⟩
  · exact absurd rfl htick
  · exact absurd rfl (hreset b)
  · exact ⟨rfl, rfl⟩
  · exact ⟨rfl, rfl⟩

/-- Settles O18: the latches after W1, after W2 and after the whole request, each by the lemma of its write. -/
theorem lineStatesInsideATick : Obligations.LineStatesInsideATick := by
  refine ⟨fun s pat p => ?_, fun i s s' htick hreset h => exec_keeps_latches htick hreset h⟩
  obtain ⟨hsel₁, hseg₁⟩ := deassertAll_latches s
  obtain ⟨hsel₂, hseg₂⟩ := driveSegments_latches s.deassertAll pat
  obtain ⟨hseg₃, hsel₃⟩ := outReq_latches s pat (selDecode p)
  exact ⟨hsel₁, hseg₁, hsel₂.trans hsel₁, hseg₂, rfl, hsel₃.trans (selDecode_eq_ofNat p), hseg₃⟩

-- The trace since the last RESET

theorem sinceReset_append_resetMark (tr : List TraceItem) : sinceReset (tr ++ [.resetMark]) = [] := by
  rw [sinceReset, List.foldl_append]
  rfl

/-- What follows the last marker grows by whatever is appended without a marker. -/
theorem sinceReset_append {ws : List TraceItem} (hws : .resetMark ∉ ws) (tr : List TraceItem) :
    sinceReset (tr ++ ws) = sinceReset tr ++ ws := by
  induction ws generalizing tr with
  | nil => simp
  | cons w ws ih =>
    obtain ⟨hw, hrest⟩ := List.ne_and_not_mem_of_not_mem_cons hws
    have hone : sinceReset (tr ++ [w]) = sinceReset tr ++ [w] := by
      rw [sinceReset, List.foldl_append, List.foldl_cons, List.foldl_nil, if_neg (Ne.symm hw), sinceReset]
    rw [List.append_cons, ih hrest, hone, ← List.append_cons]

theorem resetMark_notMem_wantedWrites (pat : Pattern) (p : Nat) : .resetMark ∉ wantedWrites pat p := by
  simp [wantedWrites]

-- What the display has done since the last RESET

/-- Consuming the input word touches nothing of the display. -/
theorem State.DisplayInv.consume {s : State} (hinv : s.DisplayInv) : s.consume.DisplayInv := by
  simpa only [State.DisplayInv, State.consume_cfg, State.consume_t, State.consume_trace, State.consume_selQ,
    State.consume_segQ] using hinv

/-- A RESET starts the history anew, with no TICK in it. -/
theorem restart_displayInv {s : State} (hcheck : s.cfg.check = none) : s.restart.DisplayInv :=
  ⟨hcheck, 0, (Nat.zero_mod _).symm, sinceReset_append_resetMark s.trace, fun hne => absurd rfl hne⟩

/-- A TICK after `n` others is TICK number `n`, and makes them `n + 1`. -/
theorem exec_tick_keeps_displayInv {s s' : State} (hinv : s.DisplayInv) (h : exec .tick s = .next s') : s'.DisplayInv := by
  obtain ⟨hcheck, n, ht, htrace, -⟩ := hinv
  obtain ⟨hlive, -⟩ := exec_cases h
  obtain ⟨pat, hpat, htick⟩ := exec_tick_live hlive
  cases htick.symm.trans h
  refine ⟨hcheck, n + 1, ?counter, ?writes, fun _ => ?latches⟩
  case counter => rw [ht, Nat.mod_add_mod]
  case writes =>
    have hthis : wantedTick s.cfg (n % s.cfg.modulus) = wantedWrites pat (wantedLine s.cfg s.t) := by
      rw [← ht, wantedTick, hpat]
    rw [sinceReset_append (resetMark_notMem_wantedWrites _ _), htrace, List.range_succ, List.flatMap_append,
      List.flatMap_singleton, hthis]
  case latches =>
    rw [Nat.add_sub_cancel, ← ht]
    exact ⟨rfl, hpat⟩

/-- TICK goes on with the history, RESET starts it anew, and every other operation leaves the display as it was. -/
theorem exec_keeps_displayInv {i : Instr} {s s' : State} (hinv : s.DisplayInv) (h : exec i s = .next s') : s'.DisplayInv := by
  have ⟨hcheck, _⟩ := hinv
  obtain ⟨-, ⟨-, rfl⟩ | ⟨rfl, -⟩ | ⟨-, rfl⟩ | ⟨-, -, -, ⟨r, rfl⟩ | ⟨a, -, rfl⟩⟩⟩ := exec_cases h
  · exact hinv
  · exact exec_tick_keeps_displayInv hinv h
  · exact restart_displayInv hcheck
  · exact hinv
  · exact hinv

/-- Settles O44: a step is its operation, run on the state with the word consumed. -/
theorem displayHistoryKept : Obligations.DisplayHistoryKept :=
  fun _ _ hinv h => exec_keeps_displayInv hinv.consume h

-- The lines in the course of the writes

/-- Bit `i` of the lines after one trace write (R34). -/
theorem replayItem_write_bit (l mask v : Lines) {i : Nat} (hi : i < 15) :
    (replayItem l (.write mask v)).getLsbD i = if mask.getLsbD i then v.getLsbD i else l.getLsbD i := by
  rw [replayItem, BitVec.getLsbD_or, BitVec.getLsbD_and, BitVec.getLsbD_and, BitVec.getLsbD_not]
  cases mask.getLsbD i <;> simp [hi]

/-- W1 leaves no digit-select line asserted (R71). -/
theorem replayItem_deassert_bit (l : Lines) {i : Nat} (hi : i < 8) :
    (replayItem l (.write 0x00FF#15 0#15)).getLsbD i = false := by
  rw [replayItem_write_bit _ _ _ (by omega), (outMasks_bits.1 i hi).1, if_pos rfl, BitVec.getLsbD_zero]

/-- W2 leaves the digit-select lines as they were (R71). -/
theorem replayItem_segments_bit (l v : Lines) {i : Nat} (hi : i < 8) :
    (replayItem l (.write 0x7F00#15 v)).getLsbD i = l.getLsbD i := by
  rw [replayItem_write_bit _ _ _ (by omega), (outMasks_bits.1 i hi).2, if_neg Bool.false_ne_true]

/-- W3 asserts line `p` beside those that were (R71). -/
theorem replayItem_assert_bit (l : Lines) (p : Nat) {i : Nat} (hi : i < 8) :
    (replayItem l (.write (BitVec.ofNat 15 (2 ^ p)) (BitVec.ofNat 15 (2 ^ p)))).getLsbD i = (decide (p = i) || l.getLsbD i) := by
  rw [replayItem_write_bit _ _ _ (by omega), ofNat_two_pow_bit p (by omega)]
  cases decide (p = i) <;> rfl

/-- From W1 of a request on, no line but its own is asserted, whatever the lines were before it. -/
theorem replay_take_wantedWrites_bit (l : Lines) (pat : Pattern) (p : Nat) {k i : Nat} (hpos : 0 < k) (hk : k ≤ 3) (hi : i < 8)
    (hlit : (replay l ((wantedWrites pat p).take k)).getLsbD i = true) : p = i := by
  have hafterW1 := replayItem_deassert_bit l hi
  have hafterW2 := (replayItem_segments_bit _ (BitVec.ofNat 15 (256 * pat.toNat)) hi).trans hafterW1
  obtain rfl | rfl | rfl : k = 1 ∨ k = 2 ∨ k = 3 := by omega
  · exact absurd (hafterW1.symm.trans hlit) Bool.false_ne_true
  · exact absurd (hafterW2.symm.trans hlit) Bool.false_ne_true
  · have hafterW3 := (replayItem_assert_bit _ p hi).symm.trans hlit
    rwa [hafterW2, Bool.or_false, decide_eq_true_iff] at hafterW3

theorem atMostOneLine_of_only {l : Lines} {p : Nat} (honly : ∀ i < 8, l.getLsbD i = true → p = i) : atMostOneLine l :=
  fun i hi j hj hli hlj => (honly i hi hli).symm.trans (honly j hj hlj)

theorem wantedDigit_lt_ten (c : Config) (t : Nat) : wantedDigit c t < 10 := Nat.mod_lt _ (by decide)

theorem wantedLine_lt_eight (c : Config) (t : Nat) : wantedLine c t < 8 := by
  rw [wantedLine]
  omega

/-- In an accepted configuration every TICK issues the writes of one request. -/
theorem wantedTick_eq_wantedWrites {c : Config} (hcheck : c.check = none) (t : Nat) :
    ∃ pat, wantedTick c t = wantedWrites pat (wantedLine c t) := by
  obtain ⟨-, -, hentries⟩ := check_eq_none hcheck
  obtain ⟨pat, hpat⟩ := hentries _ (wantedDigit_lt_ten c t)
  exact ⟨pat, by rw [wantedTick, hpat]⟩

/-- After each of the writes of a list of TICKs at most one line is asserted: the writes so far end inside the first TICK, or the
first TICK's lines are where the others start. -/
theorem atMostOneLine_replay_take_wantedTicks {c : Config} (hcheck : c.check = none) (ts : List Nat) (l : Lines) {k : Nat}
    (hpos : 0 < k) (hk : k ≤ (ts.flatMap (wantedTick c)).length) :
    atMostOneLine (replay l ((ts.flatMap (wantedTick c)).take k)) := by
  induction ts generalizing l k with
  | nil => exact absurd hk (Nat.not_le.mpr hpos)
  | cons t ts ih =>
    obtain ⟨pat, hpat⟩ := wantedTick_eq_wantedWrites hcheck t
    have hthree : (wantedWrites pat (wantedLine c t)).length = 3 := rfl
    rw [List.flatMap_cons, hpat] at hk ⊢
    obtain hinside | hbeyond := le_or_gt k 3
    · rw [List.take_append_of_le_length (hthree ▸ hinside)]
      exact atMostOneLine_of_only fun i hi => replay_take_wantedWrites_bit l pat _ hpos hinside hi
    · rw [List.length_append, hthree] at hk
      rw [List.take_append, hthree, List.take_of_length_le (by omega), replay, List.foldl_append]
      exact ih _ (by omega) (by omega)

/-- Settles O45: the writes since the last RESET are those of the history's TICKs. -/
theorem neverTwoLinesLit : Obligations.NeverTwoLinesLit := by
  intro s hinv l₀ k hpos hk
  obtain ⟨hcheck, n, -, htrace, -⟩ := hinv
  rw [← List.flatMap_map (· % s.cfg.modulus) (wantedTick s.cfg)] at htrace
  rw [htrace] at hk ⊢
  exact atMostOneLine_replay_take_wantedTicks hcheck _ l₀ hpos hk

-- The lines between ticks

/-- A one-hot select latch asserts exactly its line. -/
theorem exactlyOneLine_of_oneHot {s : State} {p : Nat} (hp : p < 8) (hsel : s.selQ = BitVec.ofNat 8 (2 ^ p)) :
    exactlyOneLine s.lines := by
  have hbit : ∀ i < 8, s.lines.getLsbD i = decide (p = i) := fun i hi => by
    rw [lines_bit, if_pos hi, hsel, ofNat_two_pow_bit p hi]
  refine ⟨⟨p, hp, by simp [hbit p hp]⟩, atMostOneLine_of_only (p := p) fun i hi hlit => ?_⟩
  rwa [hbit i hi, decide_eq_true_iff] at hlit

/-- Settles O46: a write since the last RESET means a TICK, and the latches hold the last one's request. -/
theorem oneLineLitBetweenTicks : Obligations.OneLineLitBetweenTicks := by
  intro s hinv hwrites
  obtain ⟨-, n, -, htrace, hlatches⟩ := hinv
  have hticks : n ≠ 0 := by
    rintro rfl
    exact hwrites htrace
  obtain ⟨hsel, hseg⟩ := hlatches hticks
  exact ⟨exactlyOneLine_of_oneHot (wantedLine_lt_eight _ _) hsel, _, wantedDigit_lt_ten _ _, hseg⟩

end Sys2Proof.Machine
end

section

/-! The proofs about the multiplex scheduler (spec/43_multiplex_scheduler.md): IDLE and RESET, the exact TICK, its advance and its two
ends, and the requests of TICK as a function of the counter, repeating after `M`. -/

namespace Sys2Proof.Machine

-- IDLE and RESET

/-- Settles O19: the word by O3's round trip; a live state passes the gate, and IDLE goes on with it unchanged. -/
theorem idleChangesNothing : Obligations.IdleChangesNothing :=
  ⟨decodeOfEncode .idle rfl, fun _ hlive => whenLive_of_live hlive _⟩

/-- Settles O20: RESET of a live state is `restart`, whose fields these are. -/
theorem resetRestarts : Obligations.ResetRestarts := fun _ b hlive => execReset_live hlive b

-- TICK

/-- Settles O12: the step is `exec_tick_live` with `M` written out, and R59's fault is ENCODE's at any address with no entry. -/
theorem tickResult : Obligations.TickResult :=
  ⟨decodeOfEncode .tick rfl, fun _ hlive => exec_tick_live hlive, fun s _ k ha => encodeThen_outOfRange ha s k, fun _ => rfl⟩

/-- Settles O16: equal counters and configurations want the same digit and the same line, and an entry of the table is one pattern. -/
theorem tickDependsOnCounterOnly : Obligations.TickDependsOnCounterOnly := by
  intro s₁ s₂ hlive₁ hlive₂ hcfg ht
  obtain ⟨pat, hpat₁, htick₁⟩ := exec_tick_live hlive₁
  obtain ⟨pat₂, hpat₂, htick₂⟩ := exec_tick_live hlive₂
  rw [← hcfg, ← ht] at hpat₂ htick₂
  obtain rfl : pat = pat₂ := Option.some.inj (hpat₁.symm.trans hpat₂)
  exact ⟨_, _, wantedWrites pat (wantedLine s₁.cfg s₁.t), htick₁, htick₂, rfl, rfl, rfl, rfl, rfl, rfl⟩

-- The advance

/-- `M` is no power of two: 5 divides it (R74). -/
theorem modulus_ne_two_pow (c : Config) (k : Nat) : c.modulus ≠ 2 ^ k := by
  intro hpow
  have hfive : 5 ∣ c.modulus := ⟨8000 * c.roundPerCount, by rw [Config.modulus]; omega⟩
  have hprime : Nat.Prime 5 := by decide
  exact absurd (hprime.dvd_of_dvd_pow (hpow ▸ hfive)) (by decide)

/-- The counter's successor fits the `W` bits too: `M` fits them and is not `2^W` itself. -/
theorem State.CounterInv.succ_lt_two_pow {s : State} (hinv : s.CounterInv) : s.t + 1 < 2 ^ s.cfg.counterWidth := by
  obtain ⟨hcheck, hlt⟩ := hinv
  obtain ⟨-, hfits, -⟩ := check_eq_none hcheck
  exact (Nat.succ_le_of_lt hlt).trans_lt (hfits.lt_of_ne (modulus_ne_two_pow s.cfg _))

/-- A `W`-bit adder gives the counter's exact successor (R74). -/
theorem State.CounterInv.toNat_ofNat_add_one {s : State} (hinv : s.CounterInv) :
    (BitVec.ofNat s.cfg.counterWidth s.t + 1).toNat = s.t + 1 := by
  have hsum : BitVec.ofNat s.cfg.counterWidth s.t + 1 = BitVec.ofNat s.cfg.counterWidth (s.t + 1) :=
    (BitVec.ofNat_add s.t 1).symm
  rw [hsum, BitVec.toNat_ofNat, Nat.mod_eq_of_lt hinv.succ_lt_two_pow]

/-- Settles O14: the advance is a remainder by `M`, which is positive and fits the `W` bits. -/
theorem advanceWraps : Obligations.AdvanceWraps := by
  intro s hlive hlt
  have ⟨_, hcheck, _⟩ := hlive
  obtain ⟨-, hfits, -⟩ := check_eq_none hcheck
  have hinv : s.CounterInv := ⟨hcheck, hlt⟩
  have hbelow : (s.t + 1) % s.cfg.modulus < s.cfg.modulus := Nat.mod_lt _ (modulus_pos hcheck)
  obtain ⟨pat, -, htick⟩ := exec_tick_live hlive
  refine ⟨_, htick, rfl, hbelow, hbelow.trans_le hfits, fun hlast => ?wraps, fun hlast => ?toLast, hinv.toNat_ofNat_add_one,
    modulus_ne_two_pow s.cfg⟩
  case wraps =>
    have hsucc : s.t + 1 = s.cfg.modulus := by omega
    simp only [hsucc, Nat.mod_self]
  case toLast =>
    have hsucc : s.t + 1 = s.cfg.modulus - 1 := by omega
    simp only [hsucc, Nat.mod_eq_of_lt (show s.cfg.modulus - 1 < s.cfg.modulus by omega)]

-- The two ends of the counter's range

/-- The TICK at 0 shows digit 0 on line 0 (R73). -/
theorem wanted_at_zero (c : Config) : wantedDigit c 0 = 0 ∧ wantedLine c 0 = 0 := by
  simp [wantedDigit, wantedLine, wantedValue]

/-- The TICK at `M - 1` shows the thousands of 9999, digit 9, on line 7: 9999 is odd (R73). -/
theorem wanted_at_last {c : Config} (hr : 1 ≤ c.roundPerCount) {t : Nat} (ht : t + 1 = c.modulus) :
    wantedDigit c t = 9 ∧ wantedLine c t = 7 := by
  obtain ⟨-, hlast, -⟩ := displayedValueRange c t hr (by omega)
  rw [Config.modulus] at ht
  have hvalue : wantedValue c t = 9999 := by
    rw [← dispVal_eq_wantedValue]
    exact hlast.mpr (by omega)
  have hslot : t % 4 = 3 := by omega
  simp [wantedDigit, wantedLine, hvalue, hslot]

/-- Settles O15: the digit and the line of each end, put into `exec_tick_live`. -/
theorem tickAtTheEnds : Obligations.TickAtTheEnds := by
  intro s hlive
  have ⟨_, hcheck, _⟩ := hlive
  obtain ⟨hr, -⟩ := check_eq_none hcheck
  obtain ⟨pat, hpat, htick⟩ := exec_tick_live hlive
  refine ⟨fun hzero => ?first, fun hlast => ?last⟩
  case first =>
    obtain ⟨hdigit, hline⟩ := wanted_at_zero s.cfg
    have hone : 1 < s.cfg.modulus := by rw [Config.modulus]; omega
    rw [hzero, hdigit] at hpat
    rw [hzero, hline, Nat.mod_eq_of_lt hone] at htick
    exact ⟨_, htick, rfl, rfl, hpat⟩
  case last =>
    obtain ⟨hdigit, hline⟩ := wanted_at_last hr hlast
    rw [hdigit] at hpat
    rw [hline, hlast, Nat.mod_self] at htick
    exact ⟨_, htick, rfl, rfl, hpat⟩

-- The period of the requests

/-- In an accepted configuration every TICK issues three writes (R70). -/
theorem wantedTick_length {c : Config} (hcheck : c.check = none) (t : Nat) : (wantedTick c t).length = 3 := by
  obtain ⟨pat, hpat⟩ := wantedTick_eq_wantedWrites hcheck t
  rw [hpat]
  rfl

/-- Settles O48: `M` TICKs bring the counter back (O47), and from the same counter they issue the same writes again. -/
theorem requestsArePeriodic : Obligations.RequestsArePeriodic := by
  intro s rest hlive hlt hin
  rw [List.replicate_add, List.append_assoc] at hin
  have hback : (s.t + s.cfg.modulus) % s.cfg.modulus = s.t := by rw [Nat.add_mod_right, Nat.mod_eq_of_lt hlt]
  obtain ⟨s₁, hrun₁, hlive₁, hcfg₁, hin₁, ht₁, htrace₁⟩ := ticksRun s _ _ hlive hlt hin
  rw [hback] at ht₁
  obtain ⟨s₂, hrun₂, -, -, -, ht₂, htrace₂⟩ := ticksRun s₁ s.cfg.modulus rest hlive₁ (by rwa [ht₁, hcfg₁]) hin₁
  rw [hcfg₁, ht₁] at ht₂ htrace₂
  refine ⟨s₁, s₂, _, hrun₁, hrun₂, ht₁, ht₂.trans hback, htrace₁, htrace₂, ?_⟩
  have ⟨_, hcheck, _⟩ := hlive
  simp only [List.length_flatMap, wantedTick_length hcheck, List.map_const', List.length_range, List.sum_replicate, smul_eq_mul,
    Nat.mul_comm]

end Sys2Proof.Machine
end

section

/-! The proofs about exceptions (spec/60_exceptions.md): a run of event words never faults, the verdict on a configuration, the two
closed gates, and a RESET that comes with a tick. -/

namespace Sys2Proof.Machine

-- A run of event words

/-- The decoder reads one of the three events from an event word (R48). -/
theorem decodeEvent_cases (ev : EventWord) :
    decodeEvent ev = .idle ∨ decodeEvent ev = .tick ∨ ∃ b, decodeEvent ev = .reset b := by
  revert ev
  decide

/-- Where only event words wait, the next word is one: the oldest waiting, or the environment's own (R85). -/
theorem State.EventsOnly.nextWord_eq {s : State} (h : s.EventsOnly) : ∃ ev, s.nextWord = .event ev := by
  cases hin : s.inputs with
  | nil => exact ⟨_, (step_of_no_inputs hin).1⟩
  | cons x rest =>
    obtain ⟨hnext, -⟩ := step_of_inputs hin
    have hevent : isEvent x = true := h x (by simp [hin])
    cases x with
    | event ev => exact ⟨ev, hnext⟩
    | segRom | divRom | selDec => cases hevent

/-- Consuming the oldest word leaves the others waiting. -/
theorem State.EventsOnly.consume {s : State} (h : s.EventsOnly) : s.consume.EventsOnly := by
  rw [State.EventsOnly, State.consume_inputs]
  exact fun x hx => h x (List.mem_of_mem_tail hx)

/-- Consuming a word touches neither mark nor configuration. -/
theorem State.Live.consume {s : State} (h : s.Live) : s.consume.Live := by
  simpa only [State.Live, State.consume_refused, State.consume_cfg, State.consume_fault] using h

/-- Every event completes in a live state and leaves the marks and the waiting words as they were (R82). -/
theorem exec_event_live {s : State} (h : s.Live) (ev : EventWord) :
    ∃ s', exec (decodeEvent ev) s = .next s' ∧ s'.Live ∧ s'.inputs = s.inputs := by
  obtain hidle | htick | ⟨b, hreset⟩ := decodeEvent_cases ev
  · rw [hidle]
    exact ⟨s, whenLive_of_live h _, h, rfl⟩
  · rw [htick]
    obtain ⟨pat, -, hnext⟩ := exec_tick_live h
    exact ⟨_, hnext, h, rfl⟩
  · rw [hreset]
    exact ⟨_, execReset_live h b, h, rfl⟩

/-- Settles O43: the next word is an event, which completes, and the counter stays below its modulus (O42). -/
theorem noRunFaults : Obligations.NoRunFaults := by
  intro s ⟨hlive, hevents, hlt⟩
  have ⟨_, hcheck, _⟩ := hlive
  obtain ⟨ev, hword⟩ := hevents.nextWord_eq
  obtain ⟨s', hexec, hlive', hin⟩ := exec_event_live hlive.consume ev
  have hstep : step s = .next s' := by
    rw [step, hword]
    exact hexec
  obtain ⟨-, hlt'⟩ := step_keeps_counterInv ⟨hcheck, hlt⟩ hstep
  have hevents' : s'.EventsOnly := by
    rw [State.EventsOnly, hin]
    exact hevents.consume
  exact ⟨s', hstep, hlive', hevents', hlt'⟩

-- The verdict on a configuration

/-- A digit has an entry exactly where the table holds a number of 7 bits (R10). -/
theorem segEntry_isSome_iff (c : Config) (d : Nat) :
    (c.segEntry d).isSome = true ↔ ∃ n < 128, c.segTable[d]? = some (some n) := by
  unfold Config.segEntry
  split
  case h_1 n hentry =>
    rw [hentry]
    by_cases hn : n < 128 <;> simp [hn]
  case h_2 hnone =>
    exact iff_of_false Bool.false_ne_true fun ⟨n, _, hentry⟩ => hnone n hentry

/-- The check of the table is R83's condition on its ten entries. -/
theorem segTableOk_iff (c : Config) :
    c.segTableOk = true ↔ ∀ d < 10, ∃ n < 128, c.segTable[d]? = some (some n) := by
  simp only [Config.segTableOk, List.all_eq_true, List.mem_range, segEntry_isSome_iff]

/-- The reason that a refusal names holds: each is answered behind the test of its own condition (R83). -/
theorem check_named_reason (c : Config) :
    (c.check = some .rZero → c.roundPerCount = 0) ∧
    (c.check = some .counterWidth → 2 ^ c.counterWidth < c.modulus) ∧
    (c.check = some .segTable → ¬ c.segTableOk = true) := by
  unfold Config.check
  split
  case isTrue hzero => exact ⟨fun _ => hzero, nofun, nofun⟩
  case isFalse =>
    split
    case isTrue hwide => exact ⟨nofun, fun _ => hwide, nofun⟩
    case isFalse =>
      split
      case isTrue => exact ⟨nofun, nofun, nofun⟩
      case isFalse htable => exact ⟨nofun, nofun, fun _ => htable⟩

/-- Settles O8: the verdict and the named reason in the model's terms, then the table check written out. -/
theorem configurationVerdict : Obligations.ConfigurationVerdict := by
  intro c
  obtain ⟨hzero, hwide, htable⟩ := check_named_reason c
  refine ⟨?accepted, hzero, hwide, fun h => ?table⟩
  case accepted => rw [check_eq_none_iff, segTableOk_iff, Config.modulus, Nat.succ_le_iff]
  case table =>
    have hbad := htable h
    rw [segTableOk_iff] at hbad
    push Not at hbad
    exact hbad

-- The closed gate

/-- Where the gate gives one answer whatever is behind it, every operation gives that answer. -/
theorem exec_of_gate_closed {s : State} {o : StepOutcome} (h : ∀ k, s.whenLive k = o) (i : Instr) : exec i s = o := by
  obtain ⟨k, hgated⟩ := exec_gated i s
  exact hgated.trans (h k)

/-- Consuming a word leaves a closed gate closed: the gate asks only for the marks and the configuration. -/
theorem step_of_gate_closed {s : State} {o : StepOutcome} (h : ∀ k, s.whenLive k = o) : step s = o := by
  refine exec_of_gate_closed (fun k => ?_) _
  rw [← h fun _ => k s.consume]
  simp only [State.whenLive, State.consume_refused, State.consume_cfg, State.consume_fault]

/-- The mark refuses, and where there is none the configuration's check does (R83). -/
theorem whenLive_of_refused {s : State} {r : ConfigRefusal}
    (h : s.refused = some r ∨ (s.refused = none ∧ s.cfg.check = some r)) (k : State → StepOutcome) :
    s.whenLive k = .refused (.config r) := by
  obtain hmark | ⟨hmark, hcheck⟩ := h
  · simp only [State.whenLive, hmark]
  · simp only [State.whenLive, hmark, hcheck]

/-- In an accepted configuration the fault mark answers (R88). -/
theorem whenLive_of_faulted {s : State} {f : Fault} (hmark : s.refused = none) (hcheck : s.cfg.check = none)
    (hfault : s.fault = some f) (k : State → StepOutcome) : s.whenLive k = .fault f := by
  simp only [State.whenLive, hmark, hcheck, hfault]

/-- Settles O10: a refusal closes the gate. -/
theorem refusedConfigurationTakesNoStep : Obligations.RefusedConfigurationTakesNoStep := by
  intro i s r h
  have hclosed := whenLive_of_refused h
  exact ⟨exec_of_gate_closed hclosed i, step_of_gate_closed hclosed⟩

/-- Settles O11: a fault closes the gate, RESET among the operations behind it. -/
theorem faultedStateTakesNoStep : Obligations.FaultedStateTakesNoStep := by
  intro i s f hmark hcheck hfault
  have hclosed := whenLive_of_faulted hmark hcheck hfault
  exact ⟨exec_of_gate_closed hclosed i, step_of_gate_closed hclosed⟩

-- RESET and tick in one word

/-- Settles O21: both words decode to RESET (O1), whose effect on a live state is `restart` with either tick bit. -/
theorem resetBeatsTick : Obligations.ResetBeatsTick := by
  obtain ⟨-, -, hreset, hboth⟩ := eventCodesDecode
  refine ⟨hboth, fun s hlive => ?_⟩
  rw [hboth, hreset]
  have hrestart : ∀ b, exec (.reset b) s = .next s.restart := execReset_live hlive
  exact ⟨(hrestart 1#1).trans (hrestart 0#1).symm, s.restart, hrestart 1#1, rfl, rfl⟩

end Sys2Proof.Machine
end

section

/-! The proof about the state a run starts in (spec/70_reset_and_hazards.md R96, R97). -/

namespace Sys2Proof.Machine

/-- RESET overwrites the counter and both latches, so a fresh state, with no trace and no draw made, restarts into `resetWith`
whatever those three held (R96). -/
theorem restart_of_fresh (c : Config) (k : Nat) (a : SelectWord) (b : Pattern) :
    ({ State.resetWith c with t := k, selQ := a, segQ := b, trace := [], draws := 0 } : State).restart = State.resetWith c :=
  rfl

/-- Settles O22: `restart_of_fresh`, then the fields that `resetWith` names, the refusal mark as the check sets it. -/
theorem resetState : Obligations.ResetState :=
  fun c k a b => ⟨restart_of_fresh c k a b, rfl, rfl, rfl, rfl, rfl⟩

end Sys2Proof.Machine
end
